-- ==== Sys2Proof/Config.lean ====
section
/-!
DEFINITION. The fixed parameters of the block, under the names of 00_scope.md R6. (The marker, the
instruction codes and the field positions, which the spec supplies from general knowledge, are tables
of Sys2Proof/Decode.lean.)
-/

namespace Sys2Proof.Config

/-- `W`, the canvas width in pixels. -/
abbrev W : Nat := 300
/-- `H`, the canvas height in pixels. -/
abbrev H : Nat := 216
/-- `BX`, the width of the left and right border bands. -/
abbrev BX : Nat := 6
/-- `BY`, the height of the top and bottom border bands. -/
abbrev BY : Nat := 12
/-- `SW`, the safe-area width. -/
abbrev SW : Nat := 288
/-- `SH`, the safe-area height. -/
abbrev SH : Nat := 192
/-- `TW`, the tile width. -/
abbrev TW : Nat := 6
/-- `TH`, the tile height. -/
abbrev TH : Nat := 12
/-- `TROWS`, the tile rows that fit. -/
abbrev TROWS : Nat := 18
/-- `TCOLS`, the tile columns that fit. -/
abbrev TCOLS : Nat := 50
/-- `PKT`, the packet length in bytes. -/
abbrev PKT : Nat := 24
/-- `PPS`, packets per second of stream time. -/
abbrev PPS : Nat := 300
/-- The sample period in milliseconds of stream time (60_exceptions.md R241). -/
abbrev samplePeriodMs : Nat := 40
/-- `SAMPLE`, packets per sample: 40 ms at 300 packets per second. -/
abbrev SAMPLE : Nat := samplePeriodMs * PPS / 1000
/-- `HOFF_MAX`, the largest horizontal scroll sub-position. -/
abbrev HOFF_MAX : Nat := 5
/-- `VOFF_MAX`, the largest vertical scroll sub-position. -/
abbrev VOFF_MAX : Nat := 11

end Sys2Proof.Config
end

