-- ==== Sys2Proof/Word.lean ====
section
/-!
DEFINITION. The bit-vector types of the CDG engine (00_scope.md R8): bytes of a packet, 4-bit canvas
cells, and the packet counters.
-/

namespace Sys2Proof

/-- A byte, bits 7 (most significant) down to 0 (00_scope.md R8). -/
abbrev Byte := BitVec 8

/-- One canvas cell: a 4-bit palette index (10_state.md R22). -/
abbrev Cell := BitVec 4

/-- A packet position: `POS_WIDTH` bits, 32 by the spec's default (00_scope.md R7).
DESIGN CHOICE, log 5: unsafe only for streams of 2^32 packets or more. -/
abbrev Pos := BitVec 32

/-- One packet: 24 bytes in the order they arrive (00_scope.md R9, 30_encoding.md R70). -/
abbrev Packet := Vector Byte 24

end Sys2Proof
end

