-- ==== Sys2Proof/Syntax.lean ====
section
/-!
DEFINITION. The commands of the CDG engine (30_encoding.md R75, R80 to R86), one constructor per row
of opcode_table.json, and the spec's assembler lines (30_encoding.md R87 to R89).
-/

namespace Sys2Proof

/-- A colour as three 4-bit channels (00_scope.md R10: a palette entry is a triple `(r, g, b)`). -/
structure Rgb4 where
  r : BitVec 4
  g : BitVec 4
  b : BitVec 4
  deriving DecidableEq, Repr

/-- The nine commands an instruction code can select (30_encoding.md R75). -/
inductive Opcode where
  | memPreset
  | borderPreset
  | tile
  | tileXor
  | scrollPreset
  | scrollCopy
  | loadClutLo
  | loadClutHi
  | defTransp
  deriving DecidableEq, Repr

/-- One decoded command. Every operand has exactly its field's encoded width (30_encoding.md R80 to
R86), so values beyond the used range are operands too; the meanings clamp them. -/
inductive Instr where
  /-- MEMPRESET (R80); `rep` is the field `repeat`. -/
  | memPreset (color rep : BitVec 4)
  /-- BORDERPRESET (R81). -/
  | borderPreset (color : BitVec 4)
  /-- TILE (R82). -/
  | tile (color0 color1 : BitVec 4) (row : BitVec 5) (column : BitVec 6) (mask : Vector (BitVec 6) 12)
  /-- TILEXOR (R82). -/
  | tileXor (color0 color1 : BitVec 4) (row : BitVec 5) (column : BitVec 6) (mask : Vector (BitVec 6) 12)
  /-- SCROLLPRESET (R83). -/
  | scrollPreset (color : BitVec 4) (hCmd : BitVec 2) (hOffset : BitVec 3) (vCmd : BitVec 2) (vOffset : BitVec 4)
  /-- SCROLLCOPY (R83); its colour bits are ignored, so they are no operand. -/
  | scrollCopy (hCmd : BitVec 2) (hOffset : BitVec 3) (vCmd : BitVec 2) (vOffset : BitVec 4)
  /-- LOADCLUTLO (R85). -/
  | loadClutLo (colors : Vector Rgb4 8)
  /-- LOADCLUTHI (R85). -/
  | loadClutHi (colors : Vector Rgb4 8)
  /-- DEFTRANSP (R86). -/
  | defTransp
  deriving DecidableEq, Repr

/-- Why a packet selects no command of the opcode table. Neither is an error: both have an effect
(40_packet_reader.md R107, 45_no_effect.md R221). -/
inductive DecodeReject where
  /-- The command byte does not match the marker (30_encoding.md R72). -/
  | nonMarker
  /-- A marker packet whose code is none of the nine (30_encoding.md R76). -/
  | unrecognised (code : BitVec 6)
  deriving DecidableEq, Repr

/-- One line of the spec's assembler notation (30_encoding.md R87, R89), its operands the numbers
written; `AsmLine.wellFormed` checks that each fits its field. -/
inductive AsmLine where
  | memPreset (color rep : Nat)
  | borderPreset (color : Nat)
  | tile (color0 color1 row column : Nat) (mask : List Nat)
  | tileXor (color0 color1 row column : Nat) (mask : List Nat)
  | scrollPreset (color hCmd hOffset vCmd vOffset : Nat)
  | scrollCopy (hCmd hOffset vCmd vOffset : Nat)
  | loadClutLo (colors : List (Nat × Nat × Nat))
  | loadClutHi (colors : List (Nat × Nat × Nat))
  | defTransp
  /-- `PAD n`: `n` non-marker packets of zeros. -/
  | pad (n : Nat)
  /-- `INSN k`: a marker packet with code `k` and every other byte 0. -/
  | insn (k : Nat)
  /-- `RAW b0 ... b23`: a packet byte for byte. -/
  | raw (bytes : List Nat)
  deriving DecidableEq, Repr

end Sys2Proof
end

