-- ==== Sys2Proof/WellFormed.lean ====
section
/-!
DEFINITION. Well-formedness of assembler lines: "Each operand must fit its field's encoded width ...;
an operand that does not fit is an assembly error, not a wrap" (30_encoding.md R87). An `Instr` is well
formed when the line that writes it is; its operands have their fields' widths, so every `Instr` is.
-/

namespace Sys2Proof

/-- `v` fits in `w` bits. -/
def fits (w v : Nat) : Bool := v < 2 ^ w

/-- The operands of TILE and TILEXOR fit (30_encoding.md R82): twelve 6-bit masks among them. -/
def tileOperandsFit (color0 color1 row column : Nat) (mask : List Nat) : Bool :=
  fits 4 color0 && fits 4 color1 && fits 5 row && fits 6 column && mask.length == 12 && mask.all (fits 6)

/-- The scroll operands both scroll commands have fit (30_encoding.md R83). -/
def scrollOperandsFit (hCmd hOffset vCmd vOffset : Nat) : Bool :=
  fits 2 hCmd && fits 3 hOffset && fits 2 vCmd && fits 4 vOffset

/-- Eight colours of three 4-bit channels (30_encoding.md R85). -/
def colorsFit (colors : List (Nat × Nat × Nat)) : Bool :=
  colors.length == 8 && colors.all fun c => fits 4 c.1 && fits 4 c.2.1 && fits 4 c.2.2

/-- The operand checks of 30_encoding.md R87 and R89. -/
def AsmLine.wellFormed : AsmLine → Bool
  | .memPreset color rep => fits 4 color && fits 4 rep
  | .borderPreset color => fits 4 color
  | .tile color0 color1 row column mask => tileOperandsFit color0 color1 row column mask
  | .tileXor color0 color1 row column mask => tileOperandsFit color0 color1 row column mask
  | .scrollPreset color hCmd hOffset vCmd vOffset =>
    fits 4 color && scrollOperandsFit hCmd hOffset vCmd vOffset
  | .scrollCopy hCmd hOffset vCmd vOffset => scrollOperandsFit hCmd hOffset vCmd vOffset
  | .loadClutLo colors => colorsFit colors
  | .loadClutHi colors => colorsFit colors
  | .defTransp => true
  | .pad _ => true
  | .insn k => fits 6 k
  | .raw bytes => bytes.length == 24 && bytes.all (fits 8)

/-- A colour as the three numbers of an assembler line. -/
def Rgb4.toNats (c : Rgb4) : Nat × Nat × Nat := (c.r.toNat, c.g.toNat, c.b.toNat)

/-- The assembler line that writes an instruction (30_encoding.md R87). -/
def Instr.toLine : Instr → AsmLine
  | .memPreset color rep => .memPreset color.toNat rep.toNat
  | .borderPreset color => .borderPreset color.toNat
  | .tile color0 color1 row column mask =>
    .tile color0.toNat color1.toNat row.toNat column.toNat (mask.toList.map BitVec.toNat)
  | .tileXor color0 color1 row column mask =>
    .tileXor color0.toNat color1.toNat row.toNat column.toNat (mask.toList.map BitVec.toNat)
  | .scrollPreset color hCmd hOffset vCmd vOffset =>
    .scrollPreset color.toNat hCmd.toNat hOffset.toNat vCmd.toNat vOffset.toNat
  | .scrollCopy hCmd hOffset vCmd vOffset =>
    .scrollCopy hCmd.toNat hOffset.toNat vCmd.toNat vOffset.toNat
  | .loadClutLo colors => .loadClutLo (colors.toList.map Rgb4.toNats)
  | .loadClutHi colors => .loadClutHi (colors.toList.map Rgb4.toNats)
  | .defTransp => .defTransp

/-- An instruction is well formed when its assembler line is. -/
def Instr.wellFormed (i : Instr) : Bool := i.toLine.wellFormed

end Sys2Proof
end

