-- ==== Sys2Proof/Decode.lean ====
section
/-!
DEFINITION. Decoding a packet (30_encoding.md R70 to R86), total on any 24 bytes, and the encoder
(R88). The marker, the instruction codes and the field positions are the spec's passages from general
knowledge (93_implementation_defined.md G1 to G4, G6); they stand here once, as tables. PRESUMED by
the spec, logs 6 and 7: unsafe.
-/

namespace Sys2Proof

/-- `MARKER` (30_encoding.md R72; G1). -/
def marker : BitVec 6 := 0x09

/-- One row of the opcode map. -/
structure OpcodeRow where
  op : Opcode
  code : BitVec 6
  deriving DecidableEq, Repr

/-- The opcode map of 30_encoding.md R75 (G2). -/
def opcodeMap : List OpcodeRow :=
  [ ⟨.memPreset, 1⟩,
    ⟨.borderPreset, 2⟩,
    ⟨.tile, 6⟩,
    ⟨.scrollPreset, 20⟩,
    ⟨.scrollCopy, 24⟩,
    ⟨.defTransp, 28⟩,
    ⟨.loadClutLo, 30⟩,
    ⟨.loadClutHi, 31⟩,
    ⟨.tileXor, 38⟩ ]

/-- The command an instruction code selects, if any (30_encoding.md R75, R76). -/
def opcodeOfCode (code : BitVec 6) : Option Opcode :=
  (opcodeMap.find? fun row => row.code == code).map OpcodeRow.op

/-- The instruction code of a command (30_encoding.md R75). -/
def codeOfOpcode (op : Opcode) : BitVec 6 :=
  ((opcodeMap.find? fun row => row.op == op).map OpcodeRow.code).getD 0

/-- The command an instruction is an operand form of. -/
def Instr.opcode : Instr → Opcode
  | .memPreset _ _ => .memPreset
  | .borderPreset _ => .borderPreset
  | .tile _ _ _ _ _ => .tile
  | .tileXor _ _ _ _ _ => .tileXor
  | .scrollPreset _ _ _ _ _ => .scrollPreset
  | .scrollCopy _ _ _ _ => .scrollCopy
  | .loadClutLo _ => .loadClutLo
  | .loadClutHi _ => .loadClutHi
  | .defTransp => .defTransp

/-- The `w` bits of `b` from bit `lo` up (00_scope.md R8: `b[lo + w - 1 : lo]`). -/
def bits (b : Byte) (lo w : Nat) : BitVec w := b.extractLsb' lo w

/-- A marker packet: `p[0][5:0] == MARKER` (30_encoding.md R72). -/
def isMarker (p : Packet) : Bool := bits p[0] 0 6 == marker

/-- The instruction code `p[1][5:0]` (30_encoding.md R73). -/
def packetCode (p : Packet) : BitVec 6 := bits p[1] 0 6

/-- The data byte `d[i] = p[4 + i]` (00_scope.md R9). -/
def dataByte (p : Packet) (i : Fin 16) : Byte := p[4 + i.val]

/-- RGB4 unpacking of a colour's two bytes (44_palette.md R200; G4). -/
def unpackColor (hi lo : Byte) : Rgb4 :=
  ⟨bits hi 2 4, bits hi 0 2 ++ bits lo 4 2, bits lo 0 4⟩

/-- The twelve pixel masks `mask[r] = d[4 + r][5:0]` (30_encoding.md R82). -/
def maskField (d : Fin 16 → Byte) : Vector (BitVec 6) 12 :=
  Vector.ofFn fun r : Fin 12 => bits (d ⟨4 + r.val, by omega⟩) 0 6

/-- The eight colours, colour `i` from `(d[2i], d[2i+1])` (30_encoding.md R85). -/
def colorsField (d : Fin 16 → Byte) : Vector Rgb4 8 :=
  Vector.ofFn fun i : Fin 8 => unpackColor (d ⟨2 * i.val, by omega⟩) (d ⟨2 * i.val + 1, by omega⟩)

/-- The operands of a command from its data bytes (30_encoding.md R80 to R86; G3). -/
def decodeOperands (op : Opcode) (d : Fin 16 → Byte) : Instr :=
  match op with
  | .memPreset => .memPreset (bits (d 0) 0 4) (bits (d 1) 0 4)
  | .borderPreset => .borderPreset (bits (d 0) 0 4)
  | .tile =>
    .tile (bits (d 0) 0 4) (bits (d 1) 0 4) (bits (d 2) 0 5) (bits (d 3) 0 6) (maskField d)
  | .tileXor =>
    .tileXor (bits (d 0) 0 4) (bits (d 1) 0 4) (bits (d 2) 0 5) (bits (d 3) 0 6) (maskField d)
  | .scrollPreset =>
    .scrollPreset (bits (d 0) 0 4) (bits (d 1) 4 2) (bits (d 1) 0 3) (bits (d 2) 4 2) (bits (d 2) 0 4)
  | .scrollCopy => .scrollCopy (bits (d 1) 4 2) (bits (d 1) 0 3) (bits (d 2) 4 2) (bits (d 2) 0 4)
  | .loadClutLo => .loadClutLo (colorsField d)
  | .loadClutHi => .loadClutHi (colorsField d)
  | .defTransp => .defTransp

/-- Decode a packet: the marker filter, then the instruction code, then the operands
(30_encoding.md R72, R73, R75, R76). -/
def decode (p : Packet) : Except DecodeReject Instr :=
  if isMarker p then
    match opcodeOfCode (packetCode p) with
    | some op => .ok (decodeOperands op (dataByte p))
    | none => .error (.unrecognised (packetCode p))
  else .error .nonMarker

/-! ### The encoder (30_encoding.md R88) -/

/-- A packet with the marker, an instruction code and sixteen data bytes; every other bit 0. -/
def packetOf (code : BitVec 6) (d : Vector Byte 16) : Packet :=
  #v[marker.setWidth 8, code.setWidth 8, 0, 0,
     d[0], d[1], d[2], d[3], d[4], d[5], d[6], d[7],
     d[8], d[9], d[10], d[11], d[12], d[13], d[14], d[15],
     0, 0, 0, 0]

/-- The data bytes of TILE and TILEXOR (30_encoding.md R82). -/
def tileData (color0 color1 : BitVec 4) (row : BitVec 5) (column : BitVec 6)
    (mask : Vector (BitVec 6) 12) : Vector Byte 16 :=
  #v[color0.setWidth 8, color1.setWidth 8, row.setWidth 8, column.setWidth 8,
     mask[0].setWidth 8, mask[1].setWidth 8, mask[2].setWidth 8, mask[3].setWidth 8,
     mask[4].setWidth 8, mask[5].setWidth 8, mask[6].setWidth 8, mask[7].setWidth 8,
     mask[8].setWidth 8, mask[9].setWidth 8, mask[10].setWidth 8, mask[11].setWidth 8]

/-- The data bytes of the scroll commands (30_encoding.md R83). -/
def scrollData (color : BitVec 4) (hCmd : BitVec 2) (hOffset : BitVec 3) (vCmd : BitVec 2)
    (vOffset : BitVec 4) : Vector Byte 16 :=
  #v[color.setWidth 8, 0#2 ++ hCmd ++ 0#1 ++ hOffset, 0#2 ++ vCmd ++ vOffset, 0,
     0, 0, 0, 0, 0, 0, 0, 0, 0, 0, 0, 0]

/-- A colour's first byte (30_encoding.md R85): red and the top half of green. -/
def colorHi (c : Rgb4) : Byte := 0#2 ++ c.r ++ c.g.extractLsb' 2 2

/-- A colour's second byte (30_encoding.md R85): the bottom half of green and blue. -/
def colorLo (c : Rgb4) : Byte := 0#2 ++ c.g.extractLsb' 0 2 ++ c.b

/-- The data bytes of the palette loads (30_encoding.md R85). -/
def clutData (cs : Vector Rgb4 8) : Vector Byte 16 :=
  #v[colorHi cs[0], colorLo cs[0], colorHi cs[1], colorLo cs[1],
     colorHi cs[2], colorLo cs[2], colorHi cs[3], colorLo cs[3],
     colorHi cs[4], colorLo cs[4], colorHi cs[5], colorLo cs[5],
     colorHi cs[6], colorLo cs[6], colorHi cs[7], colorLo cs[7]]

/-- Sixteen data bytes that begin with two given ones and are 0 after them. -/
def shortData (d0 d1 : Byte) : Vector Byte 16 :=
  #v[d0, d1, 0, 0, 0, 0, 0, 0, 0, 0, 0, 0, 0, 0, 0, 0]

/-- The data bytes of an instruction (30_encoding.md R80 to R86, R88). -/
def encodeData : Instr → Vector Byte 16
  | .memPreset color rep => shortData (color.setWidth 8) (rep.setWidth 8)
  | .borderPreset color => shortData (color.setWidth 8) 0
  | .tile color0 color1 row column mask => tileData color0 color1 row column mask
  | .tileXor color0 color1 row column mask => tileData color0 color1 row column mask
  | .scrollPreset color hCmd hOffset vCmd vOffset => scrollData color hCmd hOffset vCmd vOffset
  | .scrollCopy hCmd hOffset vCmd vOffset => scrollData 0 hCmd hOffset vCmd vOffset
  | .loadClutLo colors => clutData colors
  | .loadClutHi colors => clutData colors
  | .defTransp => shortData 0 0

/-- The packet of an instruction (30_encoding.md R88). -/
def encode (i : Instr) : Packet := packetOf (codeOfOpcode i.opcode) (encodeData i)

/-! ### Table words -/

/-- The packet whose bits are `w`, numbered as opcode_table.json numbers them: 16-bit words
`p[2k] || p[2k+1]`, `p[2k]` in bits 15:8 (30_encoding.md R77), the first word in the low bits; bits from
`nbits` up are 0. DEDUCED, log 31. -/
def packetOfTableWord (nbits w : Nat) : Packet :=
  Vector.ofFn fun j : Fin 24 =>
    BitVec.ofNat 8 (w % 2 ^ nbits / 2 ^ (16 * (j.val / 2) + 8 * (1 - j.val % 2)))

/-- The instruction the decoder reads from a table word. -/
def decodeTableWord (nbits w : Nat) : Option Instr :=
  match decode (packetOfTableWord nbits w) with
  | .ok i => some i
  | .error _ => none

end Sys2Proof
end

