-- ==== Sys2Proof/Machine/State.lean ====
section
/-!
DEFINITION. The state of the CDG engine as plain data (10_state.md R20 to R34), the host's operations
(60_exceptions.md R236) and the values they return.
-/

namespace Sys2Proof.Machine

/-- The canvas `C` as (linear address, cell) pairs, addresses rising, no cell of value 0 listed
(10_state.md R22, 20_memory.md R51). DESIGN CHOICE, log 4: safe. -/
abbrev Memory := List (Nat × Cell)

/-- A colour as three 8-bit channels, what the read ports return (10_state.md R25). -/
structure Rgb888 where
  r : Byte
  g : Byte
  b : Byte
  deriving DecidableEq, Repr

/-- One operation of the host interface (60_exceptions.md R236). -/
inductive HostOp where
  | pushPkt (p : Packet)
  | rdPix (x y : Nat)
  | rdPal (i : BitVec 4)
  | rdWin (u v : Nat)
  | rdStatus
  | clearDirty
  | reset
  | restart
  deriving DecidableEq, Repr

/-- What an operation returns to the host (60_exceptions.md R236, column "returns"). -/
inductive Reply where
  /-- PUSH_PKT (40_packet_reader.md R114). -/
  | sampleDue (due : Bool)
  /-- RD_PIX (20_memory.md R54). -/
  | pixel (index : Cell)
  /-- RD_PAL: the 12-bit entry and its expansion (20_memory.md R55). -/
  | paletteEntry (entry : BitVec 12) (rgb : Rgb888)
  /-- RD_WIN (20_memory.md R56). -/
  | window (index : Cell) (rgb : Rgb888)
  /-- RD_STATUS: `DIRTY`, `PKT_POS`, `LAST_UPD`, `HOFF`, `VOFF`. -/
  | status (dirty : Bool) (pktPos lastUpd : Pos) (hoff : BitVec 3) (voff : BitVec 4)
  deriving DecidableEq, Repr

/-- The machine: the spec's eight items (10_state.md R20), then the model's own two (logs 1 and 2). -/
structure State where
  /-- `C` (R22). -/
  canvas : Memory
  /-- `PAL` (R24). -/
  palette : Vector Rgb4 16
  /-- `HOFF` (R26). -/
  hoff : BitVec 3
  /-- `VOFF` (R27). -/
  voff : BitVec 4
  /-- `PREV_MP` (R28). -/
  prevMp : Bool
  /-- `DIRTY` (R29). -/
  dirty : Bool
  /-- `PKT_POS` (R30). -/
  pktPos : Pos
  /-- `LAST_UPD` (R31). -/
  lastUpd : Pos
  /-- The model's own: operations the host has issued and the block has not taken, oldest first.
  DESIGN CHOICE, log 1. -/
  inbox : List HostOp
  /-- The model's own: what the last operation returned. DESIGN CHOICE, log 2. -/
  reply : Option Reply
  deriving DecidableEq, Repr

/-- No packet raises a fault ("No command ever throws", 60_exceptions.md R230), and no host operation
does: nothing raises a `Fault`, so the type has no constructor. Safe. -/
inductive Fault where
  deriving DecidableEq, Repr

/-- Why the machine gives no meaning. -/
inductive Refusal where
  /-- An instruction that has no meaning in the model yet: raised by no arm of `exec`. Safe. -/
  | notModelled (mnemonic : String)
  /-- RD_PIX outside 0..299 by 0..215: raised by the read port, as 20_memory.md R54 refuses it. Safe. -/
  | pixelOutOfRange
  /-- RD_WIN outside 0..287 by 0..191: raised by the read port, as 20_memory.md R56 refuses it. Safe. -/
  | windowOutOfRange
  deriving DecidableEq, Repr

/-- What every meaning answers. -/
abbrev Result := Host.Outcome State Fault Refusal

/-- The state after RESET (10_state.md R34, 70_reset_and_hazards.md R250; log 10). -/
def State.reset : State where
  canvas := []
  palette := Vector.replicate 16 ⟨0, 0, 0⟩
  hoff := 0
  voff := 0
  prevMp := false
  dirty := false
  pktPos := 0
  lastUpd := 0
  inbox := []
  reply := none

end Sys2Proof.Machine
end

