-- ==== Sys2Proof/Machine/Operands.lean ====
section
/-!
DEFINITION. What the commands compute from their operands: the clamps (60_exceptions.md R231), the tile's
place and pixel colours (42_tile_block.md), the scroll shifts (43_scroll.md) and the colour expansion.
-/

namespace Sys2Proof.Machine

/-- `row` clamped to the last tile row that fits (42_tile_block.md R150; log 18). -/
def tileRow (row : BitVec 5) : Nat := min row.toNat (Config.TROWS - 1)

/-- `column` clamped to the last tile column that fits (42_tile_block.md R150; log 18). -/
def tileColumn (column : BitVec 6) : Nat := min column.toNat (Config.TCOLS - 1)

/-- `top`, the canvas row of the tile's first row (42_tile_block.md R150). -/
def tileTop (row : BitVec 5) : Nat := tileRow row * Config.TH

/-- `left`, the canvas column of the tile's first column (42_tile_block.md R150). -/
def tileLeft (column : BitVec 6) : Nat := tileColumn column * Config.TW

/-- The colour the mask selects for tile row `r`, bit position `b` counted from the most significant bit
(42_tile_block.md R151). -/
def tileColor (color0 color1 : Cell) (mask : Vector (BitVec 6) 12) (r : Fin 12) (b : Fin 6) : Cell :=
  if mask[r].getLsbD (5 - b.val) then color1 else color0

/-- The 72 tile positions in the order of the pseudocode's loops (42_tile_block.md R152). -/
def tilePositions : List (Fin 12 × Fin 6) :=
  (List.finRange 12).flatMap fun r => (List.finRange 6).map fun b => (r, b)

/-- `dx` (43_scroll.md R170): positive to the right; `hCmd` 0 and 3 shift nothing. Log 8. -/
def scrollDx (hCmd : BitVec 2) : Int := if hCmd = 1 then 6 else if hCmd = 2 then -6 else 0

/-- `dy` (43_scroll.md R170): positive downwards; `vCmd` 0 and 3 shift nothing. Log 8. -/
def scrollDy (vCmd : BitVec 2) : Int := if vCmd = 1 then 12 else if vCmd = 2 then -12 else 0

/-- The new `HOFF`, `min(hOffset, 5)` (43_scroll.md R176; log 18). -/
def clampHOffset (hOffset : BitVec 3) : BitVec 3 := BitVec.ofNat 3 (min hOffset.toNat Config.HOFF_MAX)

/-- The new `VOFF`, `min(vOffset, 11)` (43_scroll.md R176; log 18). -/
def clampVOffset (vOffset : BitVec 4) : BitVec 4 := BitVec.ofNat 4 (min vOffset.toNat Config.VOFF_MAX)

/-- `ch8 = ch4 * 17` (10_state.md R25). -/
def expandChannel (ch : BitVec 4) : Byte := BitVec.ofNat 8 (ch.toNat * 17)

/-- The RGB888 colour of a palette entry (10_state.md R25). -/
def expandColor (c : Rgb4) : Rgb888 := ⟨expandChannel c.r, expandChannel c.g, expandChannel c.b⟩

/-- The register view of a palette entry: red `[11:8]`, green `[7:4]`, blue `[3:0]` (10_state.md R24;
log 23). -/
def packColor (c : Rgb4) : BitVec 12 := c.r ++ c.g ++ c.b

end Sys2Proof.Machine
end

