-- ==== Sys2Proof/Machine/Ops.lean ====
section
/-!
DEFINITION. The named operations over the canvas, the palette and the other fields of State. No packet
raises an exception and nothing returns from one (60_exceptions.md R230, R233), so there is no exception
entry here.
-/

namespace Sys2Proof.Machine

/-! ### The canvas as memory -/

/-- What an unlisted address reads as: the reset contents (10_state.md R34). -/
def Memory.unlisted : Cell := 0

/-- The cell at a linear address. -/
def Memory.read : Memory → Nat → Cell
  | [], _ => Memory.unlisted
  | (b, v) :: m, a => if a < b then Memory.unlisted else if a = b then v else Memory.read m a

/-- `rest` with a cell listed before it, unless the cell holds what an unlisted address reads as. -/
def Memory.entry (a : Nat) (v : Cell) (rest : Memory) : Memory :=
  if v = Memory.unlisted then rest else (a, v) :: rest

/-- The cell at address `a` set to `v`. -/
def Memory.write (m : Memory) (a : Nat) (v : Cell) : Memory :=
  m.takeWhile (fun e => e.1 < a) ++ Memory.entry a v (m.dropWhile fun e => e.1 ≤ a)

/-- The addresses rise from `lo` on, stay inside the canvas, and no unlisted value is listed. -/
def Memory.wfFrom : Nat → Memory → Bool
  | _, [] => true
  | lo, (a, v) :: m =>
    decide (lo ≤ a) && decide (a < Config.W * Config.H) && (v != Memory.unlisted) && Memory.wfFrom (a + 1) m

/-- The canonical form of the canvas. -/
def Memory.wf (m : Memory) : Bool := Memory.wfFrom 0 m

/-- The linear address `y * 300 + x` (20_memory.md R51). -/
def cellAddress (x y : Nat) : Nat := y * Config.W + x

/-- `C[x, y]` (00_scope.md R10). -/
def Memory.pixel (m : Memory) (x y : Nat) : Cell := m.read (cellAddress x y)

/-- `C[x, y] <- v`, bounds-checked (00_scope.md R10, 20_memory.md R64); outside the canvas nothing is
written. -/
def Memory.setPixel (m : Memory) (x y : Nat) (v : Cell) : Memory :=
  if x < Config.W ∧ y < Config.H then m.write (cellAddress x y) v else m

/-- The cells of one row from column `x` on, `n` of them, before the cells of `rest`. -/
def Memory.rowOnto (g : Nat → Cell) (base : Nat) (rest : Memory) : Nat → Nat → Memory
  | 0, _ => rest
  | n + 1, x => Memory.entry (base + x) (g x) (Memory.rowOnto g base rest n (x + 1))

/-- The cells of `n` rows from row `y` on. -/
def Memory.rowsFrom (g : Nat → Nat → Cell) : Nat → Nat → Memory
  | 0, _ => []
  | n + 1, y =>
    Memory.rowOnto (fun x => g x y) (y * Config.W) (Memory.rowsFrom g n (y + 1)) Config.W 0

/-- The canvas with `C[x, y] = g x y` for every `x` and `y`: the pseudocode's loop over all cells. -/
def Memory.build (g : Nat → Nat → Cell) : Memory := Memory.rowsFrom g Config.H 0

/-- Every cell `color` (41_presets.md R130). -/
def Memory.fill (color : Cell) : Memory := Memory.build fun _ _ => color

/-- The border (20_memory.md R52, with the bottom band rows 204..215 as 90_conflicts.md C1 has it). -/
def inBorder (x y : Nat) : Bool := decide (y < 12) || decide (y > 203) || decide (x < 6) || decide (x > 293)

/-! ### Tiles -/

/-- The 72 writes of a tile (42_tile_block.md R152, R153): pixel `(left + b, top + r)` becomes
`combine old c`, `c` the colour its mask bit selects. -/
def Memory.drawTile (m : Memory) (combine : Cell → Cell → Cell) (color0 color1 : Cell) (row : BitVec 5)
    (column : BitVec 6) (mask : Vector (BitVec 6) 12) : Memory :=
  tilePositions.foldl
    (fun c rb =>
      let x := tileLeft column + rb.2.val
      let y := tileTop row + rb.1.val
      c.setPixel x y (combine (c.pixel x y) (tileColor color0 color1 mask rb.1 rb.2)))
    m

/-! ### Rewriting the whole canvas from a snapshot -/

/-- Where a cell of the new canvas comes from: a cell of the snapshot, or a fill colour. -/
inductive CellSource where
  | cell (x y : Nat)
  | fill (color : Cell)
  deriving DecidableEq, Repr

/-- The cell a source names in the snapshot `m`. -/
def Memory.fetchCell (m : Memory) : CellSource → Cell
  | .cell x y => m.pixel x y
  | .fill color => color

/-- The canvas whose every cell comes from the snapshot `m` as `source` says (00_scope.md R11: a command
that reads a snapshot `C0`). -/
def Memory.gather (m : Memory) (source : Nat → Nat → CellSource) : Memory :=
  Memory.build fun x y => m.fetchCell (source x y)

/-- The snapshot as an array, one element per linear address. -/
def Memory.dense (m : Memory) : Array Cell :=
  m.foldl (fun d e => d.setIfInBounds e.1 e.2) (Array.replicate (Config.W * Config.H) Memory.unlisted)

/-- `gather` with the snapshot read through an array, for running the model: `gather_eq_gatherDense`
proves it the same function. -/
def Memory.gatherDense (m : Memory) (source : Nat → Nat → CellSource) : Memory :=
  if m.wf then
    let d := m.dense
    Memory.build fun x y =>
      match source x y with
      | .cell x y => d.getD (cellAddress x y) Memory.unlisted
      | .fill color => color
  else Memory.build fun x y => m.fetchCell (source x y)

theorem Memory.read_of_lt {m : Memory} {lo a : Nat} (h : m.wfFrom lo = true) (ha : a < lo) :
    m.read a = Memory.unlisted := by
  cases m with
  | nil => rfl
  | cons e m =>
    obtain ⟨b, v⟩ := e
    simp only [Memory.wfFrom, Bool.and_eq_true, decide_eq_true_eq] at h
    simp only [Memory.read, if_pos (show a < b by omega)]

theorem Memory.dense_fold {m : Memory} : ∀ {lo : Nat} (_ : m.wfFrom lo = true) (d : Array Cell) (a : Nat)
    (_ : d.size = Config.W * Config.H),
    (m.foldl (fun d e => d.setIfInBounds e.1 e.2) d).getD a Memory.unlisted =
      if m.read a = Memory.unlisted then d.getD a Memory.unlisted else m.read a := by
  induction m with
  | nil => intro lo h d a hd; simp [Memory.read]
  | cons e m ih =>
    obtain ⟨b, v⟩ := e
    intro lo h d a hd
    simp only [Memory.wfFrom, Bool.and_eq_true, decide_eq_true_eq, bne_iff_ne, ne_eq] at h
    obtain ⟨⟨⟨-, hb⟩, hv⟩, hm⟩ := h
    simp only [List.foldl_cons]
    rw [ih hm (d.setIfInBounds b v) a (by simpa using hd)]
    by_cases hab : a < b
    · rw [Memory.read_of_lt hm (by omega)]
      simp [Memory.read, hab, Array.getD_eq_getD_getElem?, show b ≠ a by omega]
    · by_cases hae : a = b
      · subst hae
        rw [Memory.read_of_lt hm (by omega)]
        simp [Memory.read, hv, Array.getD_eq_getD_getElem?, hd, hb]
      · simp [Memory.read, hab, hae, Array.getD_eq_getD_getElem?, show b ≠ a by omega]

theorem Memory.dense_getD {m : Memory} (h : m.wf = true) (a : Nat) :
    m.dense.getD a Memory.unlisted = m.read a := by
  rw [Memory.dense, Memory.dense_fold h _ a (by simp)]
  split
  · next h0 => rw [h0]; simp [Array.getD_eq_getD_getElem?, Array.getElem?_replicate]; split <;> rfl
  · rfl

@[csimp] theorem Memory.gather_eq_gatherDense : @Memory.gather = @Memory.gatherDense := by
  funext m source
  unfold Memory.gather Memory.gatherDense
  split
  · next h =>
    congr 1
    funext x y
    cases source x y <;> simp [Memory.fetchCell, Memory.pixel, Memory.dense_getD h]
  · rfl

/-- BORDERPRESET's new canvas: the border from the fill colour, the safe area kept (41_presets.md
R135). -/
def borderSource (color : Cell) (x y : Nat) : CellSource :=
  if inBorder x y then .fill color else .cell x y

/-- The border cells set to `color`, the others kept (41_presets.md R135). -/
def Memory.fillBorder (m : Memory) (color : Cell) : Memory := m.gather (borderSource color)

/-! ### The shift operators (43_scroll.md section 1) -/

/-- Where HShiftCopy takes a cell from: `C0[(x - dx) mod 300, y]`. -/
def hCopySource (dx : Int) (x y : Nat) : CellSource := .cell (((x : Int) - dx) % 300).toNat y

/-- Where HShiftPreset takes a cell from: `C0[x - dx, y]`, or `color` where `x - dx` leaves the row. -/
def hPresetSource (dx : Int) (color : Cell) (x y : Nat) : CellSource :=
  let xs := (x : Int) - dx
  if 0 ≤ xs ∧ xs ≤ 299 then .cell xs.toNat y else .fill color

/-- Where VShiftCopy takes a cell from: `C0[x, (y - dy) mod 216]`. -/
def vCopySource (dy : Int) (x y : Nat) : CellSource := .cell x (((y : Int) - dy) % 216).toNat

/-- Where VShiftPreset takes a cell from: `C0[x, y - dy]`, or `color` where `y - dy` leaves the canvas. -/
def vPresetSource (dy : Int) (color : Cell) (x y : Nat) : CellSource :=
  let ys := (y : Int) - dy
  if 0 ≤ ys ∧ ys ≤ 215 then .cell x ys.toNat else .fill color

/-- HShiftCopy (43_scroll.md R171). -/
def Memory.hShiftCopy (m : Memory) (dx : Int) : Memory := m.gather (hCopySource dx)

/-- HShiftPreset (43_scroll.md R172). -/
def Memory.hShiftPreset (m : Memory) (dx : Int) (color : Cell) : Memory :=
  m.gather (hPresetSource dx color)

/-- VShiftCopy (43_scroll.md R173). -/
def Memory.vShiftCopy (m : Memory) (dy : Int) : Memory := m.gather (vCopySource dy)

/-- VShiftPreset (43_scroll.md R174). -/
def Memory.vShiftPreset (m : Memory) (dy : Int) (color : Cell) : Memory :=
  m.gather (vPresetSource dy color)

/-- SCROLLCOPY's canvas: the horizontal operator, then the vertical one, each only when its shift is not
0 (43_scroll.md R178; log 20). -/
def Memory.scrollCopy (m : Memory) (dx dy : Int) : Memory :=
  let m := if dx ≠ 0 then m.hShiftCopy dx else m
  if dy ≠ 0 then m.vShiftCopy dy else m

/-- SCROLLPRESET's canvas (43_scroll.md R177; log 20). -/
def Memory.scrollPreset (m : Memory) (dx dy : Int) (color : Cell) : Memory :=
  let m := if dx ≠ 0 then m.hShiftPreset dx color else m
  if dy ≠ 0 then m.vShiftPreset dy color else m

/-! ### The palette -/

/-- The palette after a load of eight entries from `base` on (44_palette.md R201, R202). -/
def loadPalette (base : Nat) (colors : Vector Rgb4 8) (pal : Vector Rgb4 16) : Vector Rgb4 16 :=
  Vector.ofFn fun j : Fin 16 =>
    if h : base ≤ j.val ∧ j.val < base + 8 then colors[j.val - base] else pal[j]

/-- Whether a load gives some entry a value it did not hold: the load leaves a different palette exactly
when one of its eight entries differs (44_palette.md R203). -/
def paletteChanges (base : Nat) (colors : Vector Rgb4 8) (pal : Vector Rgb4 16) : Bool :=
  (List.finRange 8).any fun i => decide (pal[base + i.val]? ≠ some colors[i])

/-! ### Updates of State -/

/-- The canvas replaced. -/
def State.withCanvas (s : State) (m : Memory) : State := { s with canvas := m }

/-- The palette replaced. -/
def State.withPalette (s : State) (pal : Vector Rgb4 16) : State := { s with palette := pal }

/-- The scroll sub-position replaced (43_scroll.md R176). -/
def State.withOffsets (s : State) (h : BitVec 3) (v : BitVec 4) : State := { s with hoff := h, voff := v }

/-- The operation queue replaced. -/
def State.withInbox (s : State) (ops : List HostOp) : State := { s with inbox := ops }

/-- The value returned to the host. -/
def State.withReply (s : State) (r : Option Reply) : State := { s with reply := r }

end Sys2Proof.Machine
end

