-- ==== Sys2Proof/Machine/Flags.lean ====
section
/-!
DEFINITION. The bookkeeping around every packet (40_packet_reader.md R110 to R116): `PREV_MP`, `DIRTY`,
`LAST_UPD`, `PKT_POS` and the sample signal, in the order of R105's pseudocode.
-/

namespace Sys2Proof.Machine

/-- The sample signal for a new `PKT_POS` (40_packet_reader.md R114; log 17). -/
def sampleDue (pos : Pos) : Bool := pos.toNat % Config.SAMPLE == 0

/-- `PREV_MP` after a marker packet (40_packet_reader.md R111; log 13). -/
def State.notePreset (s : State) (isMemPreset : Bool) : State := { s with prevMp := isMemPreset }

/-- `DIRTY` and `LAST_UPD` after a command that returned `changed`, while `PKT_POS` still holds the
packet's own index (40_packet_reader.md R112, R113; logs 14 and 16). -/
def State.noteChange (s : State) (changed : Bool) : State :=
  if changed then { s with dirty := true, lastUpd := s.pktPos } else s

/-- `PKT_POS` advanced, and `sample_due` returned for its new value (40_packet_reader.md R110, R114). -/
def State.countPacket (s : State) : State :=
  { s with pktPos := s.pktPos + 1, reply := some (.sampleDue (sampleDue (s.pktPos + 1))) }

/-- The bookkeeping of a marker packet, after its command has written canvas, palette and offsets. -/
def State.finishMarker (s : State) (isMemPreset changed : Bool) : State :=
  ((s.notePreset isMemPreset).noteChange changed).countPacket

end Sys2Proof.Machine
end

