-- ==== Sys2Proof/Machine/NoEffect.lean ====
section
/-!
DEFINITION. The packets that change no canvas, palette or scroll state: DEFTRANSP, the unrecognised codes
(45_no_effect.md) and the non-marker packets (40_packet_reader.md R107).
-/

namespace Sys2Proof.Machine

/-- DEFTRANSP (45_no_effect.md R220): the bookkeeping of a marker packet and nothing else. -/
def execDefTransp (s : State) : Result := .next (s.finishMarker false false)

/-- A marker packet of an unrecognised code (45_no_effect.md R221; log 12): as DEFTRANSP. -/
def skipUnrecognised (s : State) : Result := .next (s.finishMarker false false)

/-- A non-marker packet (40_packet_reader.md R107): only the position advances; `PREV_MP` is kept
(log 13). -/
def skipNonMarker (s : State) : Result := .next s.countPacket

end Sys2Proof.Machine
end

