-- ==== Sys2Proof/Machine/Palettes.lean ====
section
/-!
DEFINITION. The palette commands LOADCLUTLO and LOADCLUTHI (44_palette.md).
-/

namespace Sys2Proof.Machine

/-- LOADCLUTLO (44_palette.md R201): entries 0..7. -/
def execLoadClutLo (colors : Vector Rgb4 8) (s : State) : Result :=
  .next ((s.withPalette (loadPalette 0 colors s.palette)).finishMarker false
    (paletteChanges 0 colors s.palette))

/-- LOADCLUTHI (44_palette.md R202): entries 8..15. -/
def execLoadClutHi (colors : Vector Rgb4 8) (s : State) : Result :=
  .next ((s.withPalette (loadPalette 8 colors s.palette)).finishMarker false
    (paletteChanges 8 colors s.palette))

end Sys2Proof.Machine
end

