-- ==== Sys2Proof/Machine/Presets.lean ====
section
/-!
DEFINITION. The fill commands MEMPRESET and BORDERPRESET (41_presets.md).
-/

namespace Sys2Proof.Machine

/-- MEMPRESET (41_presets.md R130): suppressed when it repeats a MemoryPreset, whatever its colour; else
every cell takes `color`. -/
def execMemPreset (color rep : BitVec 4) (s : State) : Result :=
  if s.prevMp && rep != 0 then .next (s.finishMarker true false)
  else .next ((s.withCanvas (Memory.fill color)).finishMarker true true)

/-- BORDERPRESET (41_presets.md R135). -/
def execBorderPreset (color : BitVec 4) (s : State) : Result :=
  .next ((s.withCanvas (s.canvas.fillBorder color)).finishMarker false true)

end Sys2Proof.Machine
end

