-- ==== Sys2Proof/Machine/Scrolls.lean ====
section
/-!
DEFINITION. The scroll commands SCROLLPRESET and SCROLLCOPY (43_scroll.md).
-/

namespace Sys2Proof.Machine

/-- SCROLLPRESET (43_scroll.md R177): the shift with fill colour, then the sub-position (R176). -/
def execScrollPreset (color : BitVec 4) (hCmd : BitVec 2) (hOffset : BitVec 3) (vCmd : BitVec 2)
    (vOffset : BitVec 4) (s : State) : Result :=
  .next (((s.withCanvas (s.canvas.scrollPreset (scrollDx hCmd) (scrollDy vCmd) color)).withOffsets
    (clampHOffset hOffset) (clampVOffset vOffset)).finishMarker false true)

/-- SCROLLCOPY (43_scroll.md R178): the rotation, then the sub-position (R176). -/
def execScrollCopy (hCmd : BitVec 2) (hOffset : BitVec 3) (vCmd : BitVec 2) (vOffset : BitVec 4)
    (s : State) : Result :=
  .next (((s.withCanvas (s.canvas.scrollCopy (scrollDx hCmd) (scrollDy vCmd))).withOffsets
    (clampHOffset hOffset) (clampVOffset vOffset)).finishMarker false true)

end Sys2Proof.Machine
end

