-- ==== Sys2Proof/Machine/Tiles.lean ====
section
/-!
DEFINITION. The tile commands TILE and TILEXOR (42_tile_block.md).
-/

namespace Sys2Proof.Machine

/-- TILE (42_tile_block.md R152): each pixel replaced by the colour its mask bit selects. -/
def execTile (color0 color1 : BitVec 4) (row : BitVec 5) (column : BitVec 6)
    (mask : Vector (BitVec 6) 12) (s : State) : Result :=
  .next ((s.withCanvas (s.canvas.drawTile (fun _ c => c) color0 color1 row column mask)).finishMarker
    false true)

/-- TILEXOR (42_tile_block.md R153): each pixel XORed with the colour its mask bit selects. -/
def execTileXor (color0 color1 : BitVec 4) (row : BitVec 5) (column : BitVec 6)
    (mask : Vector (BitVec 6) 12) (s : State) : Result :=
  .next ((s.withCanvas (s.canvas.drawTile (fun old c => old ^^^ c) color0 color1 row column
    mask)).finishMarker false true)

end Sys2Proof.Machine
end

