-- ==== Sys2Proof/Machine/Dispatch.lean ====
section
/-!
DEFINITION. The dispatch of a decoded command to its meaning (40_packet_reader.md R105).
-/

namespace Sys2Proof.Machine

def exec (i : Instr) (s : State) : Host.Outcome State Fault Refusal :=
  match i with
  | .memPreset color rep => Sys2Proof.Machine.execMemPreset color rep s
  | .borderPreset color => Sys2Proof.Machine.execBorderPreset color s
  | .tile color0 color1 row column mask => Sys2Proof.Machine.execTile color0 color1 row column mask s
  | .tileXor color0 color1 row column mask => Sys2Proof.Machine.execTileXor color0 color1 row column mask s
  | .scrollPreset color hCmd hOffset vCmd vOffset => Sys2Proof.Machine.execScrollPreset color hCmd hOffset vCmd vOffset s
  | .scrollCopy hCmd hOffset vCmd vOffset => Sys2Proof.Machine.execScrollCopy hCmd hOffset vCmd vOffset s
  | .loadClutLo colors => Sys2Proof.Machine.execLoadClutLo colors s
  | .loadClutHi colors => Sys2Proof.Machine.execLoadClutHi colors s
  | .defTransp => Sys2Proof.Machine.execDefTransp s

end Sys2Proof.Machine
end

