-- ==== Sys2Proof/Machine/Packets.lean ====
section
/-!
DEFINITION. The packet framer (40_packet_reader.md R100 to R103) and the effect of one packet (R105).
-/

namespace Sys2Proof.Machine

/-- The packet of the first 24 bytes of `b`. -/
def packetFrom (b : List Byte) : Packet := Vector.ofFn fun j : Fin 24 => b.getD j.val 0

/-- The first `k` packets of `b`, at byte offsets 0, 24, 48, ... (20_memory.md R60). -/
def packetsFrom : Nat → List Byte → List Packet
  | 0, _ => []
  | k + 1, b => packetFrom b :: packetsFrom k (b.drop Config.PKT)

/-- The framer (40_packet_reader.md R100): `floor(L / 24)` packets; a trailing fragment is dropped
(R101), and nothing is searched for or skipped (R103). -/
def framePackets (b : List Byte) : List Packet := packetsFrom (b.length / Config.PKT) b

/-- `Step(p)` (40_packet_reader.md R105): the marker filter, the dispatch on the code, the bookkeeping. -/
def applyPacket (p : Packet) (s : State) : Result :=
  match decode p with
  | .ok i => exec i s
  | .error (.unrecognised _) => skipUnrecognised s
  | .error .nonMarker => skipNonMarker s

end Sys2Proof.Machine
end

