-- ==== Sys2Proof/Machine/HostOps.lean ====
section
/-!
DEFINITION. The host interface (60_exceptions.md R236): the read ports (20_memory.md R54 to R57),
RD_STATUS, CLEAR_DIRTY, RESET and RESTART (70_reset_and_hazards.md R250, R253), and how operations reach
the block.
-/

namespace Sys2Proof.Machine

/-- RD_PIX (20_memory.md R54); a coordinate outside the canvas is refused (log 22). -/
def readPixel (x y : Nat) (s : State) : Result :=
  if x < Config.W ∧ y < Config.H then .next (s.withReply (some (.pixel (s.canvas.pixel x y))))
  else .refused .pixelOutOfRange

/-- RD_PAL (20_memory.md R55). -/
def readPalette (i : BitVec 4) (s : State) : Result :=
  let c := s.palette[i.toNat]
  .next (s.withReply (some (.paletteEntry (packColor c) (expandColor c))))

/-- The canvas column of window column `u` (20_memory.md R56; log 9). -/
def windowX (s : State) (u : Nat) : Nat := Config.BX + s.hoff.toNat + u

/-- The canvas row of window row `v` (20_memory.md R56; log 9). -/
def windowY (s : State) (v : Nat) : Nat := Config.BY + s.voff.toNat + v

/-- RD_WIN (20_memory.md R56), the colour looked up at the time of the read (R57); a coordinate outside
the window is refused (log 22). -/
def readWindow (u v : Nat) (s : State) : Result :=
  if u < Config.SW ∧ v < Config.SH then
    let index := s.canvas.pixel (windowX s u) (windowY s v)
    .next (s.withReply (some (.window index (expandColor s.palette[index.toNat]))))
  else .refused .windowOutOfRange

/-- RD_STATUS (60_exceptions.md R236). -/
def readStatus (s : State) : Result :=
  .next (s.withReply (some (.status s.dirty s.pktPos s.lastUpd s.hoff s.voff)))

/-- CLEAR_DIRTY (60_exceptions.md R236; log 15). -/
def clearDirty (s : State) : Result := .next { s with dirty := false, reply := none }

/-- RESET (70_reset_and_hazards.md R250): every item of state to its reset value. The operations the
host has issued after it stay in the queue (log 21). -/
def hostReset (s : State) : Result := .next (State.reset.withInbox s.inbox)

/-- RESTART (70_reset_and_hazards.md R253): counters and flags cleared, canvas, palette and offsets kept
(log 11). -/
def hostRestart (s : State) : Result :=
  .next { s with pktPos := 0, lastUpd := 0, prevMp := false, dirty := false, reply := none }

/-- One host operation, an atomic step (60_exceptions.md R236). -/
def applyOp (op : HostOp) (s : State) : Result :=
  match op with
  | .pushPkt p => applyPacket p s
  | .rdPix x y => readPixel x y s
  | .rdPal i => readPalette i s
  | .rdWin u v => readWindow u v s
  | .rdStatus => readStatus s
  | .clearDirty => clearDirty s
  | .reset => hostReset s
  | .restart => hostRestart s

/-- Take the oldest operation and apply it; with none the block is idle and holds all state
(60_exceptions.md R244; log 1). -/
def takeOp (s : State) : Result :=
  match s.inbox with
  | [] => .next s
  | op :: ops => applyOp op (s.withInbox ops)

/-- The host issues operations, in order, after those it has issued already. -/
def State.issue (s : State) (ops : List HostOp) : State := s.withInbox (s.inbox ++ ops)

/-- The host delivers a whole buffer: the framer's packets, in buffer order (40_packet_reader.md R104). -/
def State.deliver (s : State) (b : List Byte) : State := s.issue ((framePackets b).map .pushPkt)

/-- The packet placed where the next step takes its operation. -/
def State.placeFirst (s : State) (p : Packet) : State := s.withInbox (.pushPkt p :: s.inbox)

/-- What a binding to a clocked interface presents together to the block (60_exceptions.md R234): RESET
or RESTART, if either, and a packet, if any. The clearing operation is taken and the packet discarded
(log 24). -/
def arbitrate (clear : Option Bool) (packet : Option Packet) : Option HostOp :=
  match clear with
  | some true => some .reset
  | some false => some .restart
  | none => packet.map .pushPkt

end Sys2Proof.Machine
end

