-- ==== Sys2Proof/Machine/Step.lean ====
section
/-!
DEFINITION. One step of the machine: the next host operation is taken and applied (20_memory.md R62).
-/

namespace Sys2Proof.Machine

/-- One step (60_exceptions.md R236: each operation is one atomic step). -/
def step (s : State) : Host.Outcome State Fault Refusal := takeOp s

/-- `s` with the packet of a table word (Sys2Proof.packetOfTableWord) as the next operation the block
takes; log 3 says how packets come to the block. -/
def State.withFetchWord (s : State) (nbits w : Nat) : State := s.placeFirst (packetOfTableWord nbits w)

end Sys2Proof.Machine
end

