-- ==== Sys2Proof/Machine/Assembler.lean ====
section
/-!
DEFINITION. The spec's assembler notation (30_encoding.md R87 to R89): from a line's text to its operands,
and from a line to its packets. An operand that does not fit is an assembly error.
-/

namespace Sys2Proof.Machine

/-! ### From a line to its packets -/

/-- The pixel masks of a line (30_encoding.md R82). -/
def lineMask (mask : List Nat) : Vector (BitVec 6) 12 :=
  Vector.ofFn fun r : Fin 12 => BitVec.ofNat 6 (mask.getD r.val 0)

/-- The eight colours of a line (30_encoding.md R85). -/
def lineColors (colors : List (Nat × Nat × Nat)) : Vector Rgb4 8 :=
  Vector.ofFn fun i : Fin 8 =>
    let c := colors.getD i.val (0, 0, 0)
    ⟨BitVec.ofNat 4 c.1, BitVec.ofNat 4 c.2.1, BitVec.ofNat 4 c.2.2⟩

/-- The non-marker packet of 24 zero bytes (30_encoding.md R89). -/
def padPacket : Packet := Vector.replicate 24 0

/-- The packets of a well-formed line (30_encoding.md R88, R89). -/
def linePackets : AsmLine → List Packet
  | .memPreset color rep => [encode (.memPreset (BitVec.ofNat 4 color) (BitVec.ofNat 4 rep))]
  | .borderPreset color => [encode (.borderPreset (BitVec.ofNat 4 color))]
  | .tile color0 color1 row column mask =>
    [encode (.tile (BitVec.ofNat 4 color0) (BitVec.ofNat 4 color1) (BitVec.ofNat 5 row)
      (BitVec.ofNat 6 column) (lineMask mask))]
  | .tileXor color0 color1 row column mask =>
    [encode (.tileXor (BitVec.ofNat 4 color0) (BitVec.ofNat 4 color1) (BitVec.ofNat 5 row)
      (BitVec.ofNat 6 column) (lineMask mask))]
  | .scrollPreset color hCmd hOffset vCmd vOffset =>
    [encode (.scrollPreset (BitVec.ofNat 4 color) (BitVec.ofNat 2 hCmd) (BitVec.ofNat 3 hOffset)
      (BitVec.ofNat 2 vCmd) (BitVec.ofNat 4 vOffset))]
  | .scrollCopy hCmd hOffset vCmd vOffset =>
    [encode (.scrollCopy (BitVec.ofNat 2 hCmd) (BitVec.ofNat 3 hOffset) (BitVec.ofNat 2 vCmd)
      (BitVec.ofNat 4 vOffset))]
  | .loadClutLo colors => [encode (.loadClutLo (lineColors colors))]
  | .loadClutHi colors => [encode (.loadClutHi (lineColors colors))]
  | .defTransp => [encode .defTransp]
  | .pad n => List.replicate n padPacket
  | .insn k => [packetOf (BitVec.ofNat 6 k) (Vector.replicate 16 0)]
  | .raw bytes => [packetFrom (bytes.map (BitVec.ofNat 8))]

/-- Assemble a line: its packets, or an assembly error (30_encoding.md R87). -/
def assemble (line : AsmLine) : Option (List Packet) :=
  if line.wellFormed then some (linePackets line) else none

/-! ### From a line's text to its operands

DESIGN CHOICE, log 28: operands are separated by spaces and commas, and the bytes of RAW are hexadecimal,
as the spec's vectors write them. Notation only: nothing observable rests on it. -/

/-- The digits of R87's numbers, each standing at the place that is its value. -/
def digitChars : List Char := "0123456789ABCDEF".toList

/-- The number some digits write in a base (30_encoding.md R87), hexadecimal digits in either case; none
where there is no digit, or one that is no digit of the base. -/
def digitsValue (base : Nat) (cs : List Char) : Option Nat :=
  match cs.mapM fun c => (digitChars.take base).idxOf? c.toUpper with
  | none | some [] => none
  | some (d :: ds) => some (ds.foldl (fun n e => n * base + e) d)

/-- An operand: decimal unless written with `0x` (30_encoding.md R87). -/
def operandValue : List Char → Option Nat
  | '0' :: 'x' :: cs => digitsValue 16 cs
  | cs => digitsValue 10 cs

/-- The words of a line. -/
def lineWords (cs : List Char) : List (List Char) :=
  (cs.foldr (fun c ws =>
    if c = ' ' ∨ c = ',' then [] :: ws
    else match ws with
      | [] => [[c]]
      | w :: ws => (c :: w) :: ws) [[]]).filter fun w => !w.isEmpty

/-- Numbers in threes: the channels of the palette lines. -/
def triples : List Nat → Option (List (Nat × Nat × Nat))
  | [] => some []
  | r :: g :: b :: ns => (triples ns).map ((r, g, b) :: ·)
  | _ => none

/-- The line a mnemonic and its operands write (30_encoding.md R87, R89). -/
def lineOfOperands (mnemonic : String) (ns : List Nat) : Option AsmLine :=
  match mnemonic, ns with
  | "MEMPRESET", [color, rep] => some (.memPreset color rep)
  | "BORDERPRESET", [color] => some (.borderPreset color)
  | "TILE", color0 :: color1 :: row :: column :: mask => some (.tile color0 color1 row column mask)
  | "TILEXOR", color0 :: color1 :: row :: column :: mask => some (.tileXor color0 color1 row column mask)
  | "SCROLLPRESET", [color, hCmd, hOffset, vCmd, vOffset] =>
    some (.scrollPreset color hCmd hOffset vCmd vOffset)
  | "SCROLLCOPY", [hCmd, hOffset, vCmd, vOffset] => some (.scrollCopy hCmd hOffset vCmd vOffset)
  | "LOADCLUTLO", ns => (triples ns).map .loadClutLo
  | "LOADCLUTHI", ns => (triples ns).map .loadClutHi
  | "DEFTRANSP", [] => some .defTransp
  | "PAD", [] => some (.pad 1)
  | "PAD", [n] => some (.pad n)
  | "INSN", [k] => some (.insn k)
  | _, _ => none

/-- The line a text writes. -/
def parseLine (text : String) : Option AsmLine :=
  match lineWords text.toList with
  | [] => none
  | mnemonic :: operands =>
    if String.ofList mnemonic = "RAW" then (operands.mapM (digitsValue 16)).map .raw
    else (operands.mapM operandValue).bind (lineOfOperands (String.ofList mnemonic))

/-- Assemble a line of text. -/
def assembleText (text : String) : Option (List Packet) := (parseLine text).bind assemble

end Sys2Proof.Machine
end

