-- ==== Sys2Proof/Safety.lean ====
section
/-!
DEFINITION. What a good state and a safe host are, in the terms the claims use.
-/

namespace Sys2Proof.Safety

open Sys2Proof.Machine

/-- The legal states: the canvas in canonical form (so every cell lies inside it), and the scroll
sub-position in its legal range (10_state.md R26, R27). -/
structure Inv (s : State) : Prop where
  canvas_wf : s.canvas.wf = true
  hoff_legal : s.hoff.toNat ≤ 5
  voff_legal : s.voff.toNat ≤ 11

/-- The read ports a host may issue: in-range arguments (60_exceptions.md R237); every other operation
is always allowed (R235). -/
def legalOp : HostOp → Bool
  | .pushPkt _ => true
  | .rdPix x y => decide (x < 300) && decide (y < 216)
  | .rdPal _ => true
  | .rdWin u v => decide (u < 288) && decide (v < 192)
  | .rdStatus => true
  | .clearDirty => true
  | .reset => true
  | .restart => true

/-- A legal state with only allowed operations waiting. -/
structure Safe (s : State) : Prop where
  inv : Inv s
  ops_legal : ∀ op ∈ s.inbox, legalOp op = true

end Sys2Proof.Safety
end

