-- ==== Sys2Proof/Certificates/Slice0/Obligations.lean ====
section
/-!
DEFINITION. The statements for the provers. Where a rule of spec/ marks itself as an inference, as a
decision of the spec's own (92_eei_decisions.md) or as general knowledge, the docstring says so and names
the log entry; such a statement has basis "derived" in OBLIGATIONS.json.
-/

open Sys2Proof Sys2Proof.Machine

/-! ### Words the statements share -/

/-- The bookkeeping of one marker packet (40_packet_reader.md R105), from the state `s` the packet found to
the state `t` it left. -/
def Sys2Proof.Claims.Booked (s t : State) (isMemPreset changed : Bool) : Prop :=
  t.prevMp = isMemPreset ∧
  t.dirty = (changed || s.dirty) ∧
  t.lastUpd = (if changed then s.pktPos else s.lastUpd) ∧
  t.pktPos = s.pktPos + 1 ∧
  t.reply = some (.sampleDue ((s.pktPos + 1).toNat % 12 == 0)) ∧
  t.inbox = s.inbox

/-- The palette and the scroll sub-position are unchanged. -/
def Sys2Proof.Claims.KeepsPaletteAndOffsets (s t : State) : Prop :=
  t.palette = s.palette ∧ t.hoff = s.hoff ∧ t.voff = s.voff

/-- The canvas `m` is canonical and holds `g x y` at every pixel. -/
def Sys2Proof.Claims.CanvasIs (m : Memory) (g : Nat → Nat → Cell) : Prop :=
  m.wf = true ∧ ∀ x y, x < 300 → y < 216 → m.pixel x y = g x y

/-- The horizontal shift in pixels a scroll command asks for (43_scroll.md R170; log 8). -/
def Sys2Proof.Claims.hShift (hCmd : BitVec 2) : Int :=
  if hCmd.toNat = 1 then 6 else if hCmd.toNat = 2 then -6 else 0

/-- The vertical shift in pixels a scroll command asks for (43_scroll.md R170; log 8). -/
def Sys2Proof.Claims.vShift (vCmd : BitVec 2) : Int :=
  if vCmd.toNat = 1 then 12 else if vCmd.toNat = 2 then -12 else 0

/-- What a command returns as `changed`, by the table of 40_packet_reader.md R112 (log 14). -/
def Sys2Proof.Claims.changedBy (i : Instr) (s : State) : Bool :=
  match i with
  | .memPreset _ rep => !(s.prevMp && decide (rep ≠ 0))
  | .borderPreset _ => true
  | .tile _ _ _ _ _ => true
  | .tileXor _ _ _ _ _ => true
  | .scrollPreset _ _ _ _ _ => true
  | .scrollCopy _ _ _ _ => true
  | .loadClutLo colors => decide (∃ k : Fin 8, s.palette[k.val] ≠ colors[k.val])
  | .loadClutHi colors => decide (∃ k : Fin 8, s.palette[8 + k.val] ≠ colors[k.val])
  | .defTransp => false

/-- A marker packet, by its number (30_encoding.md R72; log 6). -/
def Sys2Proof.Claims.marked (p : Packet) : Bool := p[0].toNat % 64 == 9

/-- The opcode map, by its numbers (30_encoding.md R75; log 6). -/
def Sys2Proof.Claims.codes : List (Opcode × Nat) :=
  [(.memPreset, 1), (.borderPreset, 2), (.tile, 6), (.scrollPreset, 20), (.scrollCopy, 24),
   (.defTransp, 28), (.loadClutLo, 30), (.loadClutHi, 31), (.tileXor, 38)]

/-- A packet as 95_test_vectors.md section 3 lays it out: four header bytes, sixteen data bytes, and the
trailing parity, here zeros. -/
def Sys2Proof.Claims.laidOut (header : Vector Byte 4) (data : Vector Byte 16) : Packet :=
  header ++ data ++ (Vector.replicate 4 0 : Vector Byte 4)

open Sys2Proof.Claims

/-! ### Encoding -/

/-- Every instruction is well formed (30_encoding.md R87), and decoding its encoding (R88) gives it back,
with every operand at every value its field admits. The positions are the spec's general knowledge
(logs 6 and 7). -/
def Obligations.DecodeOfEncodeIsTheInstruction : Prop :=
  ∀ i : Instr, i.wellFormed = true ∧ decode (encode i) = .ok i

/-- Packets written out in 95_test_vectors.md section 3 decode to the commands they are listed as
(logs 6 and 7). -/
def Obligations.ListedPacketsDecode : Prop :=
  decode #v[0x09, 0x01, 0, 0, 0x03, 0x01, 0, 0, 0, 0, 0, 0, 0, 0, 0, 0, 0, 0, 0, 0, 0, 0, 0, 0] =
    .ok (.memPreset 3 1) ∧
  decode #v[0x09, 0x02, 0, 0, 0x04, 0, 0, 0, 0, 0, 0, 0, 0, 0, 0, 0, 0, 0, 0, 0, 0, 0, 0, 0] =
    .ok (.borderPreset 4) ∧
  decode #v[0x09, 0x06, 0, 0, 0x03, 0x05, 0x01, 0x01, 0x0C, 0x0C, 0x0C, 0x0C, 0x3F, 0x3F, 0x3F, 0x3F,
      0x0C, 0x0C, 0x0C, 0x0C, 0, 0, 0, 0] =
    .ok (.tile 3 5 1 1 #v[0x0C, 0x0C, 0x0C, 0x0C, 0x3F, 0x3F, 0x3F, 0x3F, 0x0C, 0x0C, 0x0C, 0x0C]) ∧
  decode (laidOut #v[0x09, 0x26, 0, 0]
      ((((Vector.replicate 16 0x3F).set 0 0x00).set 1 0x0F).set 2 0x1F)) =
    .ok (.tileXor 0 15 31 63 (Vector.replicate 12 0x3F)) ∧
  decode #v[0x09, 0x14, 0, 0, 0x09, 0x13, 0x04, 0, 0, 0, 0, 0, 0, 0, 0, 0, 0, 0, 0, 0, 0, 0, 0, 0] =
    .ok (.scrollPreset 9 1 3 0 4) ∧
  decode #v[0x09, 0x18, 0, 0, 0x00, 0x27, 0x2F, 0, 0, 0, 0, 0, 0, 0, 0, 0, 0, 0, 0, 0, 0, 0, 0, 0] =
    .ok (.scrollCopy 2 7 2 15) ∧
  decode #v[0x09, 0x1E, 0, 0, 0, 0, 0, 0, 0, 0, 0x3C, 0x0F, 0, 0, 0x03, 0x30, 0, 0, 0, 0, 0, 0, 0, 0] =
    .ok (.loadClutLo #v[⟨0, 0, 0⟩, ⟨0, 0, 0⟩, ⟨0, 0, 0⟩, ⟨15, 0, 15⟩, ⟨0, 0, 0⟩, ⟨0, 15, 0⟩, ⟨0, 0, 0⟩,
      ⟨0, 0, 0⟩]) ∧
  decode #v[0x09, 0x1F, 0, 0, 0, 0, 0, 0, 0, 0, 0, 0, 0, 0, 0, 0, 0, 0, 0, 0, 0, 0, 0, 0] =
    .ok (.loadClutHi (Vector.replicate 8 ⟨0, 0, 0⟩)) ∧
  decode (laidOut #v[0x09, 0x1C, 0, 0] (Vector.replicate 16 0x3F)) = .ok .defTransp ∧
  decode #v[0xC9, 0x41, 0, 0, 0x01, 0x02, 0, 0, 0, 0, 0, 0, 0, 0, 0, 0, 0, 0, 0, 0, 0, 0, 0, 0] =
    .ok (.memPreset 1 2) ∧
  decode #v[0x09, 0x05, 0, 0, 0, 0, 0, 0, 0, 0, 0, 0, 0, 0, 0, 0, 0, 0, 0, 0, 0, 0, 0, 0] =
    .error (.unrecognised 5) ∧
  decode #v[0x08, 0x01, 0, 0, 0x05, 0, 0, 0, 0, 0, 0, 0, 0, 0, 0, 0, 0, 0, 0, 0, 0, 0, 0, 0] =
    .error .nonMarker

/-- 30_encoding.md R71: two packets that differ in the six parity bytes only give the same outcome from
every state. -/
def Obligations.ParityBytesChangeNothing : Prop :=
  ∀ (s : State) (p q : Packet) (ops : List HostOp),
    (∀ j (h : j < 24), j < 2 ∨ (4 ≤ j ∧ j < 20) → p[j] = q[j]) →
    step (s.withInbox (.pushPkt p :: ops)) = step (s.withInbox (.pushPkt q :: ops))

/-- 30_encoding.md R73: the code of a marker packet is the low six bits of byte 1, and its two top bits are
ignored. -/
def Obligations.MarkerPacketCodeIsLowSixBits : Prop :=
  ∀ p : Packet, isMarker p = true →
    (packetCode p).toNat = p[1].toNat % 64 ∧
    (∀ i, decode p = .ok i → (codeOfOpcode i.opcode).toNat = p[1].toNat % 64) ∧
    ∀ q : Packet, (∀ j (h : j < 24), j ≠ 1 → q[j] = p[j]) → q[1].toNat % 64 = p[1].toNat % 64 →
      decode q = decode p

/-- Bits 7:6 of the command byte and of every data byte change nothing (30_encoding.md R72, R74, general
knowledge; logs 6 and 7). -/
def Obligations.TopBitsOfPacketBytesChangeNothing : Prop :=
  ∀ (s : State) (p q : Packet) (ops : List HostOp),
    (∀ j (h : j < 24), j < 2 ∨ (4 ≤ j ∧ j < 20) → p[j].toNat % 64 = q[j].toNat % 64) →
    step (s.withInbox (.pushPkt p :: ops)) = step (s.withInbox (.pushPkt q :: ops))

/-- The `mask` and `match` of opcode_table.json over `w = p[0] || p[1]` say exactly which command a packet
is, which packets are unrecognised and which are no marker packets (30_encoding.md R77, the spec's own
inference from its general knowledge; log 6). -/
def Obligations.HeaderWordSelectsTheCommand : Prop :=
  ∀ p : Packet,
    let w : BitVec 16 := p[0] ++ p[1]
    (∀ op k, (op, k) ∈ codes →
      ((∃ i, decode p = .ok i ∧ i.opcode = op) ↔ w &&& 0x3F3F = 0x0900 ||| BitVec.ofNat 16 k)) ∧
    (decode p = .error .nonMarker ↔ w &&& 0x3F00 ≠ 0x0900) ∧
    (∀ c, decode p = .error (.unrecognised c) ↔
      w &&& 0x3F3F = 0x0900 ||| c.setWidth 16 ∧ ∀ op k, (op, k) ∈ codes → c.toNat ≠ k)

/-- The operands of a decoded command are the bits of the data bytes that 30_encoding.md R80 to R85 name,
here as numbers (general knowledge; log 7). -/
def Obligations.OperandsAreTheNamedBits : Prop :=
  ∀ (p : Packet) (i : Instr), decode p = .ok i →
    match i with
    | .memPreset color rep => color.toNat = p[4].toNat % 16 ∧ rep.toNat = p[5].toNat % 16
    | .borderPreset color => color.toNat = p[4].toNat % 16
    | .tile color0 color1 row column mask | .tileXor color0 color1 row column mask =>
      color0.toNat = p[4].toNat % 16 ∧ color1.toNat = p[5].toNat % 16 ∧ row.toNat = p[6].toNat % 32 ∧
      column.toNat = p[7].toNat % 64 ∧ ∀ r : Fin 12, mask[r.val].toNat = p[8 + r.val].toNat % 64
    | .scrollPreset color hCmd hOffset vCmd vOffset =>
      color.toNat = p[4].toNat % 16 ∧ hCmd.toNat = p[5].toNat / 16 % 4 ∧ hOffset.toNat = p[5].toNat % 8 ∧
      vCmd.toNat = p[6].toNat / 16 % 4 ∧ vOffset.toNat = p[6].toNat % 16
    | .scrollCopy hCmd hOffset vCmd vOffset =>
      hCmd.toNat = p[5].toNat / 16 % 4 ∧ hOffset.toNat = p[5].toNat % 8 ∧
      vCmd.toNat = p[6].toNat / 16 % 4 ∧ vOffset.toNat = p[6].toNat % 16
    | .loadClutLo colors | .loadClutHi colors =>
      ∀ k : Fin 8,
        colors[k.val].r.toNat = p[4 + 2 * k.val].toNat / 4 % 16 ∧
        colors[k.val].g.toNat = p[4 + 2 * k.val].toNat % 4 * 4 + p[5 + 2 * k.val].toNat / 16 % 4 ∧
        colors[k.val].b.toNat = p[5 + 2 * k.val].toNat % 16
    | .defTransp => True

/-- 30_encoding.md R86: DEFTRANSP has no decoded field. Any packet with the command and instruction bytes of
a DEFTRANSP packet is that command, and has the same outcome from every state, whatever its other bytes. -/
def Obligations.DefTranspDecodesNoField : Prop :=
  ∀ p q : Packet, decode p = .ok .defTransp → q[0] = p[0] → q[1] = p[1] →
    decode q = .ok .defTransp ∧
    ∀ (s : State) (ops : List HostOp),
      step (s.withInbox (.pushPkt q :: ops)) = step (s.withInbox (.pushPkt p :: ops))

/-- The assembler of 30_encoding.md R87 to R89 (the spec's own notation, D24; log 28): the line of an
instruction assembles to its encoding, `PAD n` to `n` packets of zeros, `INSN k` to a marker packet with
that code and every other byte 0, and `RAW` to the packet of the 24 bytes given. -/
def Obligations.AssemblerAgreesWithTheEncoder : Prop :=
  (∀ i : Instr, assemble i.toLine = some [encode i]) ∧
  (∀ n, assemble (.pad n) = some (List.replicate n (Vector.replicate 24 0))) ∧
  (∀ k, k < 64 → ∃ p : Packet, assemble (.insn k) = some [p] ∧ p[0].toNat = 9 ∧ p[1].toNat = k ∧
    ∀ j (h : j < 24), 2 ≤ j → p[j] = 0) ∧
  (∀ bytes : List Nat, bytes.length = 24 → (∀ b ∈ bytes, b < 256) →
    ∃ p : Packet, assemble (.raw bytes) = some [p] ∧
      ∀ j (h : j < 24), bytes[j]? = some p[j].toNat)

/-- A line with an operand that does not fit its field, or with another number of masks, colours or bytes
than its form has, is an assembly error (30_encoding.md R87, R89; the spec's own notation, D24; the widths
are its general knowledge, log 7). -/
def Obligations.AssemblerRefusesWhatDoesNotFit : Prop :=
  (∀ color rep, 16 ≤ color ∨ 16 ≤ rep → assemble (.memPreset color rep) = none) ∧
  (∀ color, 16 ≤ color → assemble (.borderPreset color) = none) ∧
  (∀ color0 color1 row column mask,
    16 ≤ color0 ∨ 16 ≤ color1 ∨ 32 ≤ row ∨ 64 ≤ column ∨ mask.length ≠ 12 ∨ (∃ m ∈ mask, 64 ≤ m) →
    assemble (.tile color0 color1 row column mask) = none ∧
    assemble (.tileXor color0 color1 row column mask) = none) ∧
  (∀ color hCmd hOffset vCmd vOffset, 4 ≤ hCmd ∨ 8 ≤ hOffset ∨ 4 ≤ vCmd ∨ 16 ≤ vOffset →
    assemble (.scrollPreset color hCmd hOffset vCmd vOffset) = none ∧
    assemble (.scrollCopy hCmd hOffset vCmd vOffset) = none) ∧
  (∀ color hCmd hOffset vCmd vOffset, 16 ≤ color →
    assemble (.scrollPreset color hCmd hOffset vCmd vOffset) = none) ∧
  (∀ colors : List (Nat × Nat × Nat),
    colors.length ≠ 8 ∨ (∃ c ∈ colors, 16 ≤ c.1 ∨ 16 ≤ c.2.1 ∨ 16 ≤ c.2.2) →
    assemble (.loadClutLo colors) = none ∧ assemble (.loadClutHi colors) = none) ∧
  (∀ k, 64 ≤ k → assemble (.insn k) = none) ∧
  (∀ bytes : List Nat, bytes.length ≠ 24 ∨ (∃ b ∈ bytes, 256 ≤ b) → assemble (.raw bytes) = none)

/-! ### Steps -/

/-- A step whose waiting operation is a packet that decodes to `i` is `exec i` with the operation taken
from the queue (40_packet_reader.md R105). -/
def Obligations.StepRunsTheDecodedCommand : Prop :=
  ∀ (s : State) (p : Packet) (ops : List HostOp) (i : Instr),
    s.inbox = .pushPkt p :: ops → decode p = .ok i → step s = exec i (s.withInbox ops)

/-- A non-marker packet advances the position, returns the sample signal, and changes nothing else
(40_packet_reader.md R107; that `PREV_MP` is kept is the spec's decision D8, log 13). -/
def Obligations.NonMarkerPacketOnlyCounts : Prop :=
  ∀ (s : State) (p : Packet) (ops : List HostOp),
    s.inbox = .pushPkt p :: ops → marked p = false →
    step s = .next { s with
      inbox := ops
      pktPos := s.pktPos + 1
      reply := some (.sampleDue ((s.pktPos + 1).toNat % 12 == 0)) }

/-- A marker packet of a code outside the opcode map also clears `PREV_MP`, and changes nothing else
(45_no_effect.md R221; the spec's decisions D4 and D8, logs 12 and 13). -/
def Obligations.UnrecognisedCodeOnlyClearsPrevMp : Prop :=
  ∀ (s : State) (p : Packet) (ops : List HostOp),
    s.inbox = .pushPkt p :: ops → marked p = true →
    (∀ op k, (op, k) ∈ codes → p[1].toNat % 64 ≠ k) →
    step s = .next { s with
      inbox := ops
      prevMp := false
      pktPos := s.pktPos + 1
      reply := some (.sampleDue ((s.pktPos + 1).toNat % 12 == 0)) }

/-- Every packet of every bit pattern completes in every state (60_exceptions.md R230). A non-marker packet
is skipped, an unrecognised code has no effect on canvas, palette, offsets and dirty flag, and
out-of-range fields act as their clamped values; what is skipped and what is clamped are the spec's
decisions D4, D6 and D7 and general knowledge (logs 6, 12 and 18). -/
def Obligations.EveryPacketHasADefinedEffect : Prop :=
  (∀ (s : State) (p : Packet) (ops : List HostOp), s.inbox = .pushPkt p :: ops →
    ∃ t, step s = .next t ∧
      (marked p = false → t.canvas = s.canvas ∧ KeepsPaletteAndOffsets s t ∧ t.prevMp = s.prevMp ∧
        t.dirty = s.dirty ∧ t.lastUpd = s.lastUpd) ∧
      (marked p = true → (∀ op k, (op, k) ∈ codes → p[1].toNat % 64 ≠ k) →
        t.canvas = s.canvas ∧ KeepsPaletteAndOffsets s t ∧ t.dirty = s.dirty ∧ t.lastUpd = s.lastUpd)) ∧
  (∀ s color0 color1 row column mask,
    exec (.tile color0 color1 row column mask) s =
      exec (.tile color0 color1 (BitVec.ofNat 5 (min row.toNat 17)) (BitVec.ofNat 6 (min column.toNat 49))
        mask) s ∧
    exec (.tileXor color0 color1 row column mask) s =
      exec (.tileXor color0 color1 (BitVec.ofNat 5 (min row.toNat 17)) (BitVec.ofNat 6 (min column.toNat 49))
        mask) s) ∧
  (∀ s color hCmd hOffset vCmd vOffset,
    exec (.scrollPreset color hCmd hOffset vCmd vOffset) s =
      exec (.scrollPreset color hCmd (BitVec.ofNat 3 (min hOffset.toNat 5)) vCmd
        (BitVec.ofNat 4 (min vOffset.toNat 11))) s ∧
    exec (.scrollCopy hCmd hOffset vCmd vOffset) s =
      exec (.scrollCopy hCmd (BitVec.ofNat 3 (min hOffset.toNat 5)) vCmd
        (BitVec.ofNat 4 (min vOffset.toNat 11))) s)

/-! ### The commands -/

/-- MEMPRESET completes in every state (41_presets.md R130): suppressed, it writes no canvas cell and
returns unchanged; applied, every cell is `color`, whatever the canvas was (R131). Palette and offsets are
kept (the spec's decision D31). -/
def Obligations.MemPresetFillsUnlessItRepeats : Prop :=
  ∀ (color rep : BitVec 4) (s : State), ∃ t, exec (.memPreset color rep) s = .next t ∧
    KeepsPaletteAndOffsets s t ∧
    (s.prevMp = true ∧ rep ≠ 0 → t.canvas = s.canvas ∧ Booked s t true false) ∧
    (¬ (s.prevMp = true ∧ rep ≠ 0) → CanvasIs t.canvas (fun _ _ => color) ∧ Booked s t true true)

/-- BORDERPRESET completes in every state (41_presets.md R135): the border takes `color`, the safe area is
kept; the bottom band is rows 204..215 (90_conflicts.md C1, log 30), and it returns changed always (the
spec's decision D9, log 14). -/
def Obligations.BorderPresetFillsTheBorderOnly : Prop :=
  ∀ (color : BitVec 4) (s : State), ∃ t, exec (.borderPreset color) s = .next t ∧
    CanvasIs t.canvas (fun x y =>
      if y < 12 ∨ 203 < y ∨ x < 6 ∨ 293 < x then color else s.canvas.pixel x y) ∧
    KeepsPaletteAndOffsets s t ∧ Booked s t false true

/-- TILE completes in every state with a canonical canvas (42_tile_block.md R150 to R152): the 72 pixels
from `(left, top)` take the colour their mask bit selects, the leftmost pixel from the most significant
bit; every other cell is kept. The clamps are the spec's decision D7 (log 18), the constant `changed` its
D9 (log 14). -/
def Obligations.TileReplacesItsPixels : Prop :=
  ∀ (color0 color1 : BitVec 4) (row : BitVec 5) (column : BitVec 6) (mask : Vector (BitVec 6) 12) (s : State),
    s.canvas.wf = true →
    ∃ t, exec (.tile color0 color1 row column mask) s = .next t ∧
      let left := min column.toNat 49 * 6
      let top := min row.toNat 17 * 12
      t.canvas.wf = true ∧
      (∀ (r : Fin 12) (b : Fin 6), t.canvas.pixel (left + b.val) (top + r.val) =
        if mask[r.val].toNat.testBit (5 - b.val) then color1 else color0) ∧
      (∀ x y, x < 300 → y < 216 → ¬ (left ≤ x ∧ x < left + 6 ∧ top ≤ y ∧ y < top + 12) →
        t.canvas.pixel x y = s.canvas.pixel x y) ∧
      KeepsPaletteAndOffsets s t ∧ Booked s t false true

/-- TILEXOR completes in every state with a canonical canvas (42_tile_block.md R150, R151, R153): as TILE,
each pixel XORed with the colour its mask bit selects (logs 14 and 18). -/
def Obligations.TileXorCombinesItsPixels : Prop :=
  ∀ (color0 color1 : BitVec 4) (row : BitVec 5) (column : BitVec 6) (mask : Vector (BitVec 6) 12) (s : State),
    s.canvas.wf = true →
    ∃ t, exec (.tileXor color0 color1 row column mask) s = .next t ∧
      let left := min column.toNat 49 * 6
      let top := min row.toNat 17 * 12
      t.canvas.wf = true ∧
      (∀ (r : Fin 12) (b : Fin 6), t.canvas.pixel (left + b.val) (top + r.val) =
        s.canvas.pixel (left + b.val) (top + r.val) ^^^
          if mask[r.val].toNat.testBit (5 - b.val) then color1 else color0) ∧
      (∀ x y, x < 300 → y < 216 → ¬ (left ≤ x ∧ x < left + 6 ∧ top ≤ y ∧ y < top + 12) →
        t.canvas.pixel x y = s.canvas.pixel x y) ∧
      KeepsPaletteAndOffsets s t ∧ Booked s t false true

/-- The same TILEXOR twice restores the canvas; TILE and then TILEXOR of the same fields leaves 0 at every
pixel of the tile (42_tile_block.md R154, the spec's own inference; 90_conflicts.md C6). -/
def Obligations.TileXorTwiceRestoresTheCanvas : Prop :=
  ∀ (color0 color1 : BitVec 4) (row : BitVec 5) (column : BitVec 6) (mask : Vector (BitVec 6) 12) (s : State),
    s.canvas.wf = true →
    (∃ t u, exec (.tileXor color0 color1 row column mask) s = .next t ∧
      exec (.tileXor color0 color1 row column mask) t = .next u ∧ u.canvas = s.canvas) ∧
    (∃ t u, exec (.tile color0 color1 row column mask) s = .next t ∧
      exec (.tileXor color0 color1 row column mask) t = .next u ∧
      ∀ (r : Fin 12) (b : Fin 6),
        u.canvas.pixel (min column.toNat 49 * 6 + b.val) (min row.toNat 17 * 12 + r.val) = 0)

/-- 43_scroll.md R171 to R174: each shift operator gives every cell the snapshot's cell the rule names;
the bands a shift of one tile step wraps or vacates are spelled out. -/
def Obligations.ShiftOperatorsMoveEveryCell : Prop :=
  ∀ (m : Memory) (x y : Nat), x < 300 → y < 216 →
    (∀ dx : Int, dx ≠ 0 →
      (m.hShiftCopy dx).pixel x y = m.pixel (((x : Int) - dx) % 300).toNat y ∧
      ∀ color, (m.hShiftPreset dx color).pixel x y =
        if 0 ≤ (x : Int) - dx ∧ (x : Int) - dx ≤ 299 then m.pixel ((x : Int) - dx).toNat y else color) ∧
    (∀ dy : Int, dy ≠ 0 →
      (m.vShiftCopy dy).pixel x y = m.pixel x (((y : Int) - dy) % 216).toNat ∧
      ∀ color, (m.vShiftPreset dy color).pixel x y =
        if 0 ≤ (y : Int) - dy ∧ (y : Int) - dy ≤ 215 then m.pixel x ((y : Int) - dy).toNat else color) ∧
    (x < 6 → (m.hShiftCopy 6).pixel x y = m.pixel (x + 294) y ∧
      ∀ color, (m.hShiftPreset 6 color).pixel x y = color) ∧
    (294 ≤ x → (m.hShiftCopy (-6)).pixel x y = m.pixel (x - 294) y ∧
      ∀ color, (m.hShiftPreset (-6) color).pixel x y = color) ∧
    (y < 12 → (m.vShiftCopy 12).pixel x y = m.pixel x (y + 204) ∧
      ∀ color, (m.vShiftPreset 12 color).pixel x y = color) ∧
    (204 ≤ y → (m.vShiftCopy (-12)).pixel x y = m.pixel x (y - 204) ∧
      ∀ color, (m.vShiftPreset (-12) color).pixel x y = color)

/-- SCROLLPRESET completes in every state with a canonical canvas (43_scroll.md R177): the closed form of
R175 (the spec's own inference), the sub-position clamped (R176, D6, log 18), directions as R170 (logs 8
and 20), changed always (R180, D9, log 14). -/
def Obligations.ScrollPresetShiftsAndFills : Prop :=
  ∀ (color : BitVec 4) (hCmd : BitVec 2) (hOffset : BitVec 3) (vCmd : BitVec 2) (vOffset : BitVec 4)
    (s : State), s.canvas.wf = true →
    ∃ t, exec (.scrollPreset color hCmd hOffset vCmd vOffset) s = .next t ∧
      CanvasIs t.canvas (fun x y =>
        let xs := (x : Int) - hShift hCmd
        let ys := (y : Int) - vShift vCmd
        if 0 ≤ xs ∧ xs ≤ 299 ∧ 0 ≤ ys ∧ ys ≤ 215 then s.canvas.pixel xs.toNat ys.toNat else color) ∧
      t.hoff.toNat = min hOffset.toNat 5 ∧ t.voff.toNat = min vOffset.toNat 11 ∧
      t.palette = s.palette ∧ Booked s t false true

/-- SCROLLCOPY completes in every state with a canonical canvas (43_scroll.md R178): as SCROLLPRESET, the
cells pushed off one edge reappearing at the other (logs 8, 14, 18 and 20). -/
def Obligations.ScrollCopyRotatesTheCanvas : Prop :=
  ∀ (hCmd : BitVec 2) (hOffset : BitVec 3) (vCmd : BitVec 2) (vOffset : BitVec 4) (s : State),
    s.canvas.wf = true →
    ∃ t, exec (.scrollCopy hCmd hOffset vCmd vOffset) s = .next t ∧
      CanvasIs t.canvas (fun x y =>
        s.canvas.pixel (((x : Int) - hShift hCmd) % 300).toNat (((y : Int) - vShift vCmd) % 216).toNat) ∧
      t.hoff.toNat = min hOffset.toNat 5 ∧ t.voff.toNat = min vOffset.toNat 11 ∧
      t.palette = s.palette ∧ Booked s t false true

/-- A copy scroll and then the copy scroll of the opposite directions restores the canvas exactly; the
offsets are the second command's (43_scroll.md R179, the spec's own inference). -/
def Obligations.OppositeCopyScrollsRestoreTheCanvas : Prop :=
  ∀ (h h' v v' : BitVec 2) (ho ho' : BitVec 3) (vo vo' : BitVec 4) (s : State), s.canvas.wf = true →
    hShift h' = -hShift h → vShift v' = -vShift v →
    ∃ t u, exec (.scrollCopy h ho v vo) s = .next t ∧ exec (.scrollCopy h' ho' v' vo') t = .next u ∧
      u.canvas = s.canvas ∧ u.hoff.toNat = min ho'.toNat 5 ∧ u.voff.toNat = min vo'.toNat 11

/-- LOADCLUTLO completes in every state (44_palette.md R201): entries 0..7 take the eight colours, entries
8..15 and the canvas are kept (R204), and it returns changed exactly when an entry differed (R203, the
spec's decisions D9 and D27, log 14). -/
def Obligations.LoadClutLoWritesEntriesZeroToSeven : Prop :=
  ∀ (colors : Vector Rgb4 8) (s : State), ∃ t, exec (.loadClutLo colors) s = .next t ∧
    (∀ k : Fin 8, t.palette[k.val] = colors[k.val]) ∧
    (∀ k : Fin 8, t.palette[8 + k.val] = s.palette[8 + k.val]) ∧
    t.canvas = s.canvas ∧ t.hoff = s.hoff ∧ t.voff = s.voff ∧
    ∃ changed, (changed = true ↔ ∃ k : Fin 8, s.palette[k.val] ≠ colors[k.val]) ∧
      Booked s t false changed

/-- LOADCLUTHI completes in every state (44_palette.md R202): as LOADCLUTLO, over entries 8..15
(log 14). -/
def Obligations.LoadClutHiWritesEntriesEightToFifteen : Prop :=
  ∀ (colors : Vector Rgb4 8) (s : State), ∃ t, exec (.loadClutHi colors) s = .next t ∧
    (∀ k : Fin 8, t.palette[8 + k.val] = colors[k.val]) ∧
    (∀ k : Fin 8, t.palette[k.val] = s.palette[k.val]) ∧
    t.canvas = s.canvas ∧ t.hoff = s.hoff ∧ t.voff = s.voff ∧
    ∃ changed, (changed = true ↔ ∃ k : Fin 8, s.palette[8 + k.val] ≠ colors[k.val]) ∧
      Booked s t false changed

/-- A palette load leaves every window index as it was, and every window read then shows the new palette's
colour for it (20_memory.md R57, the spec's own inference). -/
def Obligations.PaletteLoadRecoloursTheWindow : Prop :=
  ∀ (i : Instr) (colors : Vector Rgb4 8) (s t : State) (u v : Nat),
    i = .loadClutLo colors ∨ i = .loadClutHi colors → exec i s = .next t → u < 288 → v < 192 →
    ∃ index rgb rgb' s' t',
      readWindow u v s = .next s' ∧ s'.reply = some (.window index rgb) ∧
      readWindow u v t = .next t' ∧ t'.reply = some (.window index rgb') ∧
      rgb'.r.toNat = t.palette[index.toNat].r.toNat * 17 ∧
      rgb'.g.toNat = t.palette[index.toNat].g.toNat * 17 ∧
      rgb'.b.toNat = t.palette[index.toNat].b.toNat * 17

/-- DEFTRANSP completes in every state: the bookkeeping of a marker packet that is no MemoryPreset, and no
other change (45_no_effect.md R220; that it clears `PREV_MP` is the spec's decision D8, log 13). -/
def Obligations.DefTranspOnlyBooks : Prop :=
  ∀ s : State, ∃ t, exec .defTransp s = .next t ∧ t.canvas = s.canvas ∧ KeepsPaletteAndOffsets s t ∧
    Booked s t false false

/-! ### Rules over all commands -/

/-- Every command completes in every state with the bookkeeping of 40_packet_reader.md R110 to R114 and
the `changed` of R112's table (the spec's decisions D8, D9, D11 to D13; logs 13, 14, 16 and 17). -/
def Obligations.EveryCommandKeepsTheBooks : Prop :=
  ∀ (i : Instr) (s : State), ∃ t, exec i s = .next t ∧
    Booked s t (decide (i.opcode = .memPreset)) (changedBy i s)

/-- Who writes what, over every step (10_state.md R33, the spec's own inference): the canvas only by the
six drawing commands and RESET; palette entries 0..7 only by LOADCLUTLO and RESET, 8..15 only by LOADCLUTHI
and RESET; the offsets only by the scroll commands and RESET; the counters and `PREV_MP` only by packets,
RESET and RESTART; `DIRTY` is set only by a packet, and cleared only by CLEAR_DIRTY, RESET and RESTART (the
spec's decision D10, log 15). -/
def Obligations.OnlyTheNamedWritersWrite : Prop :=
  ∀ s t : State, step s = .next t →
    let took (op : HostOp) : Prop := ∃ ops, s.inbox = op :: ops
    let ran (f : Opcode → Prop) : Prop := ∃ p i, took (.pushPkt p) ∧ decode p = .ok i ∧ f i.opcode
    (t.canvas ≠ s.canvas → took .reset ∨
      ran (· ∈ [.memPreset, .borderPreset, .tile, .tileXor, .scrollPreset, .scrollCopy])) ∧
    (∀ k : Fin 8, t.palette[k.val] ≠ s.palette[k.val] → took .reset ∨ ran (· = .loadClutLo)) ∧
    (∀ k : Fin 8, t.palette[8 + k.val] ≠ s.palette[8 + k.val] → took .reset ∨ ran (· = .loadClutHi)) ∧
    ((t.hoff ≠ s.hoff ∨ t.voff ≠ s.voff) → took .reset ∨ ran (· ∈ [.scrollPreset, .scrollCopy])) ∧
    ((t.pktPos ≠ s.pktPos ∨ t.lastUpd ≠ s.lastUpd ∨ t.prevMp ≠ s.prevMp) →
      took .reset ∨ took .restart ∨ ∃ p, took (.pushPkt p)) ∧
    (s.dirty = false → t.dirty = true → ∃ p, took (.pushPkt p)) ∧
    (s.dirty = true → t.dirty = false → took .clearDirty ∨ took .reset ∨ took .restart)

/-- By no packet does what the canvas holds reach anything but the canvas: two states that differ in the
canvas only are taken by the same packet to two states that differ in the canvas only, so after it no flag,
counter, palette entry, offset or reply depends on a cell (40_packet_reader.md R112, R116). That `DIRTY` and
`LAST_UPD` do not is the spec's decision D9 (log 14): a drawing command returns changed whether or not a cell
took another value. The read ports, which return cells, are no packets. -/
def Obligations.PacketsKeepCanvasContentsInTheCanvas : Prop :=
  ∀ (s t : State) (m : Memory) (p : Packet) (ops : List HostOp), s.inbox = .pushPkt p :: ops →
    step s = .next t → ∃ t', step (s.withCanvas m) = .next t' ∧ t'.withCanvas t.canvas = t

/-! ### Streams -/

/-- Of two MemoryPresets with packets between them, the second with `repeat != 0` is suppressed when only
non-marker packets stand between, and is applied when its `repeat` is 0 or when marker packets, all of other
codes, stand between (70_reset_and_hazards.md R256). Which packets separate two presets is the spec's
decision D8 (40_packet_reader.md R107, R111; log 13). -/
def Obligations.SecondMemPresetAppliesOnlyIfSeparatedOrRepeatZero : Prop :=
  ∀ (s : State) (p q : Packet) (ps : List Packet) (color rep color' rep' : BitVec 4),
    decode p = .ok (.memPreset color rep) → decode q = .ok (.memPreset color' rep') →
    s.inbox = (p :: ps ++ [q]).map .pushPkt →
    ∃ t u : State, Host.Core.run core (ps.length + 1) s = .next t ∧ Host.Core.run core (ps.length + 2) s = .next u ∧
      ((∀ r ∈ ps, isMarker r = false) → rep' ≠ 0 → u.canvas = t.canvas ∧ u.dirty = t.dirty) ∧
      (rep' = 0 → CanvasIs u.canvas fun _ _ => color') ∧
      ((∃ r ∈ ps, isMarker r = true) → (∀ r ∈ ps, ∀ c k, decode r ≠ .ok (.memPreset c k)) →
        CanvasIs u.canvas fun _ _ => color')

/-- After any packets `PREV_MP` says whether the last marker packet among them was a MemoryPreset, and is
as it was when none was a marker packet (10_state.md R28; the spec's decision D8, log 13). -/
def Obligations.PrevMpRemembersTheLastMarkerPacket : Prop :=
  ∀ (ps : List Packet) (ops : List HostOp) (s : State), s.inbox = ps.map .pushPkt ++ ops →
    ∃ t : State, Host.Core.run core ps.length s = .next t ∧ t.inbox = ops ∧
      t.prevMp = match (ps.filter marked).getLast? with
        | none => s.prevMp
        | some p => p[1].toNat % 64 == 1

/-- From position 0 the position after `k` packets is `k` modulo 2^32, and among the first 2^32 - 1 packets
a sample is due after exactly every twelfth (40_packet_reader.md R110, R114; the spec's decisions D12 and
D13, logs 5 and 17). -/
def Obligations.SampleIsDueEveryTwelfthPacket : Prop :=
  ∀ (ps : List Packet) (ops : List HostOp) (s : State), s.pktPos = 0 → s.inbox = ps.map .pushPkt ++ ops →
    ∀ k, 0 < k → k ≤ ps.length → ∃ t : State, Host.Core.run core k s = .next t ∧ t.pktPos = BitVec.ofNat 32 k ∧
      (k < 2 ^ 32 → t.reply = some (.sampleDue (k % 12 == 0)))

/-- A sample is due at a position exactly when the stream time of that many packets, 10/3 ms each, is a
multiple of 40 ms, and exactly when the time cut to whole milliseconds is (40_packet_reader.md R114;
log 17). -/
def Obligations.SampleDueIsAMultipleOfFortyMilliseconds : Prop :=
  ∀ pos : Pos,
    (sampleDue pos = true ↔ ∃ k, pos.toNat * 10 = 3 * (40 * k)) ∧
    (sampleDue pos = true ↔ pos.toNat * 10 / 3 % 40 = 0)

/-- 40_packet_reader.md R100: the framer gives `floor(L / 24)` packets, and byte `j` of packet `k` is byte
`24k + j` of the buffer. -/
def Obligations.FramerSlicesTheBuffer : Prop :=
  ∀ b : List Byte,
    (framePackets b).length = b.length / 24 ∧
    ∀ k (hk : k < (framePackets b).length) j (hj : j < 24),
      b[24 * k + j]? = some ((framePackets b)[k][j])

/-- 40_packet_reader.md R101 and R102: a trailing fragment of 1 to 23 bytes is dropped, and a buffer
shorter than one packet leaves the block as it is. -/
def Obligations.TrailingFragmentIsDropped : Prop :=
  ∀ b fragment : List Byte, b.length % 24 = 0 → fragment.length < 24 →
    framePackets (b ++ fragment) = framePackets b ∧
    (∀ s : State, s.deliver (b ++ fragment) = s.deliver b) ∧
    framePackets fragment = [] ∧
    (∀ s : State, s.deliver fragment = s)

/-- A whole buffer delivered to a block with nothing waiting runs to its end in `floor(L / 24)` steps,
whatever its bytes, and counts exactly its packets; delivered in two pieces, cut between packets, it is the
same stream (40_packet_reader.md R104, R106; 20_memory.md R62). The count is modulo 2^32, the default of the
spec's open parameter `POS_WIDTH` (D12, log 5). -/
def Obligations.EveryBufferRunsToItsEnd : Prop :=
  (∀ (b : List Byte) (s : State), s.inbox = [] →
    ∃ t : State, Host.Core.run core (b.length / 24) (s.deliver b) = .next t ∧ t.inbox = [] ∧
      t.pktPos = s.pktPos + BitVec.ofNat 32 (b.length / 24) ∧ (Safety.Inv s → Safety.Inv t)) ∧
  (∀ (b b' : List Byte) (s : State), b.length % 24 = 0 → s.deliver (b ++ b') = (s.deliver b).deliver b')

/-! ### Invariants -/

/-- Every step keeps a legal state legal: the canvas canonical (so inside 300 x 216, 42_tile_block.md
R155), `HOFF` in 0..5 and `VOFF` in 0..11 (10_state.md R26, R27; the spec's decision D6, log 18). -/
def Obligations.EveryStepKeepsTheStateLegal : Prop :=
  ∀ s t : State, Safety.Inv s → step s = .next t → Safety.Inv t

/-- The reset state is legal, with nothing waiting. -/
def Obligations.ResetStateIsLegal : Prop :=
  Safety.Safe State.reset

/-- From a legal state whose waiting read ports have in-range arguments (the host's duty, 60_exceptions.md
R237), no run of any length ever stops. -/
def Obligations.LegalHostNeverStopsTheBlock : Prop :=
  ∀ s : State, Safety.Safe s → ∀ k, ∃ t : State, Host.Core.run core k s = .next t ∧ Safety.Safe t

/-! ### The host interface -/

/-- RD_PIX (20_memory.md R54): in range it returns `C[x, y]` and changes no state of the block; out of
range it is refused (the spec's decision D21, log 22). -/
def Obligations.ReadPixelReturnsTheCell : Prop :=
  ∀ (s : State) (x y : Nat) (ops : List HostOp), s.inbox = .rdPix x y :: ops →
    (x < 300 ∧ y < 216 → step s = .next { s with inbox := ops, reply := some (.pixel (s.canvas.pixel x y)) }) ∧
    (¬ (x < 300 ∧ y < 216) → step s = .refused .pixelOutOfRange)

/-- RD_WIN (20_memory.md R56): from a legal state and in range it returns the cell at
`(6 + HOFF + u, 12 + VOFF + v)`, which lies in the canvas, with its palette colour, and changes no state of
the block; out of range it is refused. The direction of the offset is the spec's decision D14 (log 9). -/
def Obligations.ReadWindowReturnsTheOffsetCell : Prop :=
  ∀ (s : State) (u v : Nat) (ops : List HostOp), Safety.Inv s → s.inbox = .rdWin u v :: ops →
    (u < 288 ∧ v < 192 →
      6 + s.hoff.toNat + u ≤ 298 ∧ 12 + s.voff.toNat + v ≤ 214 ∧
      ∃ rgb : Rgb888,
        let index := s.canvas.pixel (6 + s.hoff.toNat + u) (12 + s.voff.toNat + v)
        step s = .next { s with inbox := ops, reply := some (.window index rgb) } ∧
        rgb.r.toNat = s.palette[index.toNat].r.toNat * 17 ∧
        rgb.g.toNat = s.palette[index.toNat].g.toNat * 17 ∧
        rgb.b.toNat = s.palette[index.toNat].b.toNat * 17) ∧
    (¬ (u < 288 ∧ v < 192) → step s = .refused .windowOutOfRange)

/-- A channel reads as its 4-bit value times 17, applied when the palette is read (by RD_PAL and by RD_WIN),
and two entries have equal RGB888 colours exactly when their 12-bit values are equal (10_state.md R25). The
12-bit value RD_PAL returns is the register view of R24, the spec's decision D17 (log 23). -/
def Obligations.ChannelsReadTimesSeventeen : Prop :=
  (∀ (s : State) (k : BitVec 4) (ops : List HostOp), s.inbox = .rdPal k :: ops →
    ∃ (entry : BitVec 12) (rgb : Rgb888),
      let c := s.palette[k.toNat]
      step s = .next { s with inbox := ops, reply := some (.paletteEntry entry rgb) } ∧
      entry.toNat = c.r.toNat * 256 + c.g.toNat * 16 + c.b.toNat ∧
      rgb.r.toNat = c.r.toNat * 17 ∧ rgb.g.toNat = c.g.toNat * 17 ∧ rgb.b.toNat = c.b.toNat * 17) ∧
  (∀ (s t : State) (u v : Nat) (index : Cell) (rgb : Rgb888), readWindow u v s = .next t →
    t.reply = some (.window index rgb) →
    rgb.r.toNat = s.palette[index.toNat].r.toNat * 17 ∧ rgb.g.toNat = s.palette[index.toNat].g.toNat * 17 ∧
    rgb.b.toNat = s.palette[index.toNat].b.toNat * 17) ∧
  (∀ c c' : Rgb4, expandColor c = expandColor c' ↔ packColor c = packColor c')

/-- After an applied MEMPRESET every window read of a legal state returns its colour index, whatever the
offsets and whatever border stood before (95_test_vectors.md T2 with 90_conflicts.md C9). -/
def Obligations.WindowShowsTheColourOfAnAppliedPreset : Prop :=
  ∀ (s t : State) (color rep : BitVec 4) (u v : Nat), Safety.Inv s → ¬ (s.prevMp = true ∧ rep ≠ 0) →
    exec (.memPreset color rep) s = .next t → u < 288 → v < 192 →
    ∃ t' rgb, readWindow u v t = .next t' ∧ t'.reply = some (.window color rgb)

/-- RD_STATUS returns the five items and changes no state of the block, CLEAR_DIRTY clears `DIRTY` and
nothing else, and with no operation waiting the block is idle and holds all state (60_exceptions.md R236,
R244; the spec's decisions D10, D19 and D23; logs 1, 2 and 15). -/
def Obligations.StatusClearAndIdleSteps : Prop :=
  ∀ (s : State) (ops : List HostOp),
    (s.inbox = .rdStatus :: ops → step s = .next { s with
      inbox := ops, reply := some (.status s.dirty s.pktPos s.lastUpd s.hoff s.voff) }) ∧
    (s.inbox = .clearDirty :: ops → step s = .next { s with inbox := ops, dirty := false, reply := none }) ∧
    (s.inbox = [] → step s = .next s)

/-- RESET, from any state, makes every canvas cell 0, every palette entry 0x000 and every register 0, and
leaves the waiting operations (70_reset_and_hazards.md R250, 10_state.md R34; the spec's decision D15 and
the model's choice, logs 10 and 21). -/
def Obligations.ResetClearsEverything : Prop :=
  ∀ (s : State) (ops : List HostOp), s.inbox = .reset :: ops →
    ∃ t, step s = .next t ∧ CanvasIs t.canvas (fun _ _ => 0) ∧
      (∀ k (h : k < 16), packColor t.palette[k] = 0) ∧
      t.hoff = 0 ∧ t.voff = 0 ∧ t.prevMp = false ∧ t.dirty = false ∧ t.pktPos = 0 ∧ t.lastUpd = 0 ∧
      t.reply = none ∧ t.inbox = ops

/-- RESTART clears the counters and flags and keeps canvas, palette and offsets (70_reset_and_hazards.md
R253; the spec's decision D16, log 11). -/
def Obligations.RestartKeepsThePicture : Prop :=
  ∀ (s : State) (ops : List HostOp), s.inbox = .restart :: ops →
    step s = .next { s with
      inbox := ops, pktPos := 0, lastUpd := 0, prevMp := false, dirty := false, reply := none }

/-- RESET or RESTART presented together with a packet: the packet is neither applied nor counted
(60_exceptions.md R234; the spec's decision D22, log 24). -/
def Obligations.ResetWinsOverAPacket : Prop :=
  ∀ (s : State) (p : Packet) (op : HostOp) (restart : Bool),
    arbitrate (some (!restart)) (some p) = some op →
    ∃ t, step (s.withInbox [op]) = .next t ∧ t.pktPos = 0 ∧ t.inbox = [] ∧ t.reply = none ∧
      (restart = true → t.canvas = s.canvas ∧ KeepsPaletteAndOffsets s t) ∧
      (restart = false → t = State.reset)
end

