-- ==== Sys2Proof/Laws/Memory.lean ====
section
/-!
SUPPORT. The laws of the canvas: reads after writes, the canonical form kept by every operation, and
equal pixels make equal canvases.
-/

namespace Sys2Proof.Machine.Memory

/-! ### The canonical form -/

theorem wfFrom_cons {lo a : Nat} {v : Cell} {m : Memory} :
    wfFrom lo ((a, v) :: m) = true ↔ lo ≤ a ∧ a < 64800 ∧ v ≠ unlisted ∧ wfFrom (a + 1) m = true := by
  simp [wfFrom, and_assoc, Config.W, Config.H]

theorem wfFrom_mono {lo lo' : Nat} {m : Memory} (h : wfFrom lo m = true) (hle : lo' ≤ lo) :
    wfFrom lo' m = true := by
  cases m with
  | nil => rfl
  | cons e m => obtain ⟨a, v⟩ := e; rw [wfFrom_cons] at *; exact ⟨by omega, h.2⟩

theorem wfFrom_entry {lo a : Nat} {v : Cell} {rest : Memory} (h : wfFrom (a + 1) rest = true)
    (hlo : lo ≤ a) (ha : a < 64800) : wfFrom lo (entry a v rest) = true := by
  unfold entry
  split
  · exact wfFrom_mono h (by omega)
  · exact wfFrom_cons.2 ⟨hlo, ha, ‹_›, h⟩

theorem read_entry {a c : Nat} {v : Cell} {rest : Memory} (h : wfFrom (a + 1) rest = true) :
    read (entry a v rest) c = if c = a then v else read rest c := by
  unfold entry
  split
  · next hv =>
    split
    · next hc => subst hc; rw [read_of_lt h (by omega), hv]
    · rfl
  · simp only [read]
    split
    · rw [if_neg (by omega), read_of_lt h (by omega)]
    · rfl

/-- Two canonical canvases that read the same at every address are equal. -/
theorem ext_read {m m' : Memory} : ∀ {lo : Nat}, wfFrom lo m = true → wfFrom lo m' = true →
    (∀ a, a < 64800 → read m a = read m' a) → m = m' := by
  induction m generalizing m' with
  | nil =>
    intro lo _ h' hr
    cases m' with
    | nil => rfl
    | cons e m' =>
      obtain ⟨b, w⟩ := e
      obtain ⟨-, hb, hw, -⟩ := wfFrom_cons.1 h'
      exact absurd (hr b hb) (by simpa [read] using Ne.symm hw)
  | cons e m ih =>
    obtain ⟨a, v⟩ := e
    intro lo h h' hr
    obtain ⟨-, ha, hv, hm⟩ := wfFrom_cons.1 h
    cases m' with
    | nil => exact absurd (hr a ha) (by simpa [read] using hv)
    | cons e' m' =>
      obtain ⟨b, w⟩ := e'
      obtain ⟨-, hb, hw, hm'⟩ := wfFrom_cons.1 h'
      have hab : a = b := by
        have h1 := hr a ha
        have h2 := hr b hb
        simp only [read, lt_self_iff_false, if_false, if_true] at h1 h2
        by_contra hne
        rcases Nat.lt_or_gt_of_ne hne with hlt | hlt
        · rw [if_pos hlt] at h1; exact hv h1
        · rw [if_pos hlt] at h2; exact hw h2.symm
      subst hab
      have hvw : v = w := by have := hr a ha; simpa [read] using this
      subst hvw
      rw [ih hm hm' fun c hc => ?_]
      have := hr c hc
      by_cases hca : c < a + 1
      · rw [read_of_lt hm hca, read_of_lt hm' hca]
      · simpa [read, show ¬ c < a by omega, show ¬ c = a by omega] using this

/-! ### Writing one cell -/

theorem write_nil (a : Nat) (v : Cell) : write [] a v = entry a v [] := rfl

theorem write_cons_lt {a b : Nat} (v w : Cell) (m : Memory) (h : b < a) :
    write ((b, w) :: m) a v = (b, w) :: write m a v := by
  simp [write, h, show b ≤ a by omega]

theorem write_cons_gt {a b : Nat} (v w : Cell) (m : Memory) (h : a < b) :
    write ((b, w) :: m) a v = entry a v ((b, w) :: m) := by
  simp [write, show ¬ b < a by omega, show ¬ b ≤ a by omega]

theorem dropWhile_le {a : Nat} {m : Memory} (h : wfFrom (a + 1) m = true) :
    m.dropWhile (fun e => e.1 ≤ a) = m := by
  cases m with
  | nil => rfl
  | cons e m =>
    obtain ⟨b, w⟩ := e
    have := (wfFrom_cons.1 h).1
    simp [show ¬ b ≤ a by omega]

theorem write_cons_eq {a : Nat} (v w : Cell) {m : Memory} (h : wfFrom (a + 1) m = true) :
    write ((a, w) :: m) a v = entry a v m := by
  have := dropWhile_le h
  simpa [write] using congrArg (entry a v) this

theorem wfFrom_write {m : Memory} {a : Nat} (v : Cell) (ha : a < 64800) :
    ∀ {lo : Nat}, wfFrom lo m = true → lo ≤ a → wfFrom lo (write m a v) = true := by
  induction m with
  | nil => intro lo _ hlo; exact wfFrom_entry rfl hlo ha
  | cons e m ih =>
    obtain ⟨b, w⟩ := e
    intro lo h hlo
    obtain ⟨hb, hb', hw, hm⟩ := wfFrom_cons.1 h
    rcases Nat.lt_trichotomy b a with hba | rfl | hab
    · rw [write_cons_lt v w m hba]
      exact wfFrom_cons.2 ⟨hb, hb', hw, ih hm (by omega)⟩
    · rw [write_cons_eq v w hm]; exact wfFrom_entry hm hlo ha
    · rw [write_cons_gt v w m hab]
      exact wfFrom_entry (wfFrom_cons.2 ⟨by omega, hb', hw, hm⟩) hlo ha

/-- A read after a write: the value written at its address, the old value elsewhere. -/
theorem read_write {m : Memory} {a : Nat} (v : Cell) (c : Nat) :
    ∀ {lo : Nat}, wfFrom lo m = true → read (write m a v) c = if c = a then v else read m c := by
  induction m with
  | nil => intro lo _; exact read_entry rfl
  | cons e m ih =>
    obtain ⟨b, w⟩ := e
    intro lo h
    obtain ⟨hb, hb', hw, hm⟩ := wfFrom_cons.1 h
    rcases Nat.lt_trichotomy b a with hba | rfl | hab
    · rw [write_cons_lt v w m hba]
      simp only [read, ih hm]
      split_ifs <;> first | rfl | omega
    · rw [write_cons_eq v w hm, read_entry hm]
      simp only [read]
      split_ifs with h1 h2
      · rfl
      · exact read_of_lt hm (by omega)
      · rfl
    · rw [write_cons_gt v w m hab, read_entry (wfFrom_cons.2 ⟨by omega, hb', hw, hm⟩)]

/-! ### Pixels -/

theorem cellAddress_lt {x y : Nat} (hx : x < 300) (hy : y < 216) : cellAddress x y < 64800 := by
  simp only [cellAddress, Config.W]; omega

theorem cellAddress_inj {x y x' y' : Nat} (hx : x < 300) (hx' : x' < 300) :
    cellAddress x y = cellAddress x' y' ↔ x = x' ∧ y = y' := by
  simp only [cellAddress, Config.W]; omega

theorem wf_setPixel {m : Memory} (h : m.wf = true) (x y : Nat) (v : Cell) :
    (m.setPixel x y v).wf = true := by
  unfold setPixel
  split
  · next hxy => exact wfFrom_write v (cellAddress_lt hxy.1 hxy.2) h (Nat.zero_le _)
  · exact h

theorem pixel_setPixel {m : Memory} (h : m.wf = true) {x y x' y' : Nat} (v : Cell) (hx : x < 300)
    (hy : y < 216) (hx' : x' < 300) :
    (m.setPixel x y v).pixel x' y' = if x' = x ∧ y' = y then v else m.pixel x' y' := by
  rw [setPixel, if_pos ⟨hx, hy⟩, pixel, read_write v _ h]
  simp only [cellAddress_inj hx' hx, pixel]

theorem pixel_ext {m m' : Memory} (h : m.wf = true) (h' : m'.wf = true)
    (hp : ∀ x y, x < 300 → y < 216 → m.pixel x y = m'.pixel x y) : m = m' := by
  refine ext_read h h' fun a ha => ?_
  have := hp (a % 300) (a / 300) (by omega) (by omega)
  simpa only [pixel, cellAddress, Config.W, Nat.div_add_mod' a 300] using this

/-! ### Building the canvas from a function of the coordinates -/

theorem rowOnto_spec (g : Nat → Cell) (base : Nat) (rest : Memory) : ∀ (n x : Nat),
    wfFrom (base + x + n) rest = true → base + x + n ≤ 64800 →
    wfFrom (base + x) (rowOnto g base rest n x) = true ∧
    ∀ a, read (rowOnto g base rest n x) a =
      if base + x ≤ a ∧ a < base + x + n then g (a - base) else read rest a := by
  intro n
  induction n with
  | zero => intro x h hle; exact ⟨h, fun a => by rw [if_neg (by omega)]; rfl⟩
  | succ n ih =>
    intro x h hle
    obtain ⟨hw, hr⟩ := ih (x + 1) (by simpa [show base + (x + 1) + n = base + x + (n + 1) by omega] using h)
      (by omega)
    rw [show base + (x + 1) = base + x + 1 by omega] at hw
    refine ⟨wfFrom_entry hw (Nat.le_refl _) (by omega), fun a => ?_⟩
    rw [rowOnto, read_entry hw, hr]
    by_cases h1 : a = base + x
    · subst h1; rw [if_pos rfl, if_pos (by omega), Nat.add_sub_cancel_left]
    · rw [if_neg h1]
      by_cases h2 : base + x + 1 ≤ a ∧ a < base + x + 1 + n
      · rw [if_pos (by omega), if_pos (by omega)]
      · rw [if_neg (by omega), if_neg (by omega)]

theorem rowsFrom_spec (g : Nat → Nat → Cell) : ∀ (n y : Nat), y + n ≤ 216 →
    wfFrom (y * 300) (rowsFrom g n y) = true ∧
    ∀ x' y', x' < 300 → read (rowsFrom g n y) (cellAddress x' y') =
      if y ≤ y' ∧ y' < y + n then g x' y' else unlisted := by
  intro n
  induction n with
  | zero => intro y _; exact ⟨rfl, fun x' y' _ => by rw [if_neg (by omega)]; rfl⟩
  | succ n ih =>
    intro y hy
    obtain ⟨hw, hr⟩ := ih (y + 1) (by omega)
    have hw' : wfFrom (y * 300 + 0 + 300) (rowsFrom g n (y + 1)) = true := by
      simpa [show y * 300 + 0 + 300 = (y + 1) * 300 by omega] using hw
    obtain ⟨hw2, hr2⟩ := rowOnto_spec (fun x => g x y) (y * 300) (rowsFrom g n (y + 1)) 300 0 hw' (by omega)
    rw [Nat.add_zero] at hw2
    rw [rowsFrom]
    refine ⟨hw2, fun x' y' hx' => ?_⟩
    rw [hr2, hr x' y' hx']
    by_cases h1 : y' = y
    · subst h1
      rw [if_pos (by simp only [cellAddress, Config.W]; omega), if_pos (by omega)]
      simp [cellAddress, Config.W]
    · rw [if_neg (by simp only [cellAddress, Config.W]; omega)]
      by_cases h2 : y + 1 ≤ y' ∧ y' < y + 1 + n
      · rw [if_pos h2, if_pos (by omega)]
      · rw [if_neg h2, if_neg (by omega)]

theorem wf_build (g : Nat → Nat → Cell) : (build g).wf = true := by
  have h := (rowsFrom_spec g Config.H 0 (Nat.le_refl _)).1
  rwa [Nat.zero_mul] at h

theorem pixel_build (g : Nat → Nat → Cell) {x y : Nat} (hx : x < 300) (hy : y < 216) :
    (build g).pixel x y = g x y := by
  have h := (rowsFrom_spec g Config.H 0 (Nat.le_refl _)).2 x y hx
  rwa [if_pos (by simp only [Config.H]; omega)] at h

theorem build_congr {g g' : Nat → Nat → Cell} (h : ∀ x y, x < 300 → y < 216 → g x y = g' x y) :
    build g = build g' :=
  pixel_ext (wf_build g) (wf_build g') fun x y hx hy => by rw [pixel_build g hx hy, pixel_build g' hx hy, h x y hx hy]

/-- A canonical canvas is the one built from its own pixels. -/
theorem build_pixel {m : Memory} (h : m.wf = true) : build (fun x y => m.pixel x y) = m :=
  pixel_ext (wf_build _) h fun _ _ hx hy => pixel_build _ hx hy

theorem wf_fill (color : Cell) : (fill color).wf = true := wf_build _

theorem pixel_fill (color : Cell) {x y : Nat} (hx : x < 300) (hy : y < 216) :
    (fill color).pixel x y = color := pixel_build _ hx hy

theorem wf_gather (m : Memory) (source : Nat → Nat → CellSource) : (m.gather source).wf = true := wf_build _

theorem pixel_gather (m : Memory) (source : Nat → Nat → CellSource) {x y : Nat} (hx : x < 300)
    (hy : y < 216) : (m.gather source).pixel x y = m.fetchCell (source x y) := pixel_build _ hx hy

theorem wf_fillBorder (m : Memory) (color : Cell) : (m.fillBorder color).wf = true := wf_gather _ _

theorem pixel_fillBorder (m : Memory) (color : Cell) {x y : Nat} (hx : x < 300) (hy : y < 216) :
    (m.fillBorder color).pixel x y = if inBorder x y then color else m.pixel x y := by
  rw [fillBorder, pixel_gather _ _ hx hy, borderSource]
  split <;> rfl

/-! ### The shift operators -/

theorem pixel_hShiftCopy (m : Memory) (dx : Int) {x y : Nat} (hx : x < 300) (hy : y < 216) :
    (m.hShiftCopy dx).pixel x y = m.pixel (((x : Int) - dx) % 300).toNat y := pixel_gather _ _ hx hy

theorem pixel_vShiftCopy (m : Memory) (dy : Int) {x y : Nat} (hx : x < 300) (hy : y < 216) :
    (m.vShiftCopy dy).pixel x y = m.pixel x (((y : Int) - dy) % 216).toNat := pixel_gather _ _ hx hy

theorem pixel_hShiftPreset (m : Memory) (dx : Int) (color : Cell) {x y : Nat} (hx : x < 300)
    (hy : y < 216) : (m.hShiftPreset dx color).pixel x y =
      if 0 ≤ (x : Int) - dx ∧ (x : Int) - dx ≤ 299 then m.pixel ((x : Int) - dx).toNat y else color := by
  rw [hShiftPreset, pixel_gather _ _ hx hy, hPresetSource]
  split <;> rfl

theorem pixel_vShiftPreset (m : Memory) (dy : Int) (color : Cell) {x y : Nat} (hx : x < 300)
    (hy : y < 216) : (m.vShiftPreset dy color).pixel x y =
      if 0 ≤ (y : Int) - dy ∧ (y : Int) - dy ≤ 215 then m.pixel x ((y : Int) - dy).toNat else color := by
  rw [vShiftPreset, pixel_gather _ _ hx hy, vPresetSource]
  split <;> rfl

theorem hShiftCopy_pixel_zero (m : Memory) {x y : Nat} (hx : x < 300) :
    m.pixel (((x : Int) - 0) % 300).toNat y = m.pixel x y := by
  congr 1; omega

theorem vShiftCopy_pixel_zero (m : Memory) {x y : Nat} (hy : y < 216) :
    m.pixel x (((y : Int) - 0) % 216).toNat = m.pixel x y := by
  congr 1; omega

/-- SCROLLCOPY's canvas in closed form (43_scroll.md R175). -/
theorem pixel_scrollCopy (m : Memory) (dx dy : Int) {x y : Nat} (hx : x < 300) (hy : y < 216) :
    (m.scrollCopy dx dy).pixel x y =
      m.pixel (((x : Int) - dx) % 300).toNat (((y : Int) - dy) % 216).toNat := by
  unfold scrollCopy
  by_cases h1 : dx = 0 <;> by_cases h2 : dy = 0
  · subst h1 h2
    rw [hShiftCopy_pixel_zero m hx, vShiftCopy_pixel_zero m hy]
    rfl
  · subst h1
    rw [hShiftCopy_pixel_zero m hx, if_pos h2, if_neg (by simp), pixel_vShiftCopy _ _ hx hy]
  · subst h2
    rw [vShiftCopy_pixel_zero m hy, if_neg (by simp), if_pos h1, pixel_hShiftCopy _ _ hx hy]
  · rw [if_pos h2, if_pos h1, pixel_vShiftCopy _ _ hx hy, pixel_hShiftCopy _ _ hx (by omega)]

/-- SCROLLPRESET's canvas in closed form (43_scroll.md R175). -/
theorem pixel_scrollPreset (m : Memory) (dx dy : Int) (color : Cell) {x y : Nat} (hx : x < 300)
    (hy : y < 216) : (m.scrollPreset dx dy color).pixel x y =
      if 0 ≤ (x : Int) - dx ∧ (x : Int) - dx ≤ 299 ∧ 0 ≤ (y : Int) - dy ∧ (y : Int) - dy ≤ 215 then
        m.pixel ((x : Int) - dx).toNat ((y : Int) - dy).toNat
      else color := by
  unfold scrollPreset
  by_cases h1 : dx = 0 <;> by_cases h2 : dy = 0
  · subst h1 h2
    show m.pixel x y = _
    rw [if_pos (by omega)]
    simp only [Int.sub_zero, Int.toNat_natCast]
  · subst h1
    rw [if_pos h2, if_neg (by simp), pixel_vShiftPreset _ _ _ hx hy]
    simp only [Int.sub_zero, Int.toNat_natCast]
    split_ifs <;> first | rfl | omega
  · subst h2
    rw [if_neg (by simp), if_pos h1, pixel_hShiftPreset _ _ _ hx hy]
    simp only [Int.sub_zero, Int.toNat_natCast]
    split_ifs <;> first | rfl | omega
  · rw [if_pos h2, if_pos h1, pixel_vShiftPreset _ _ _ hx hy]
    by_cases hv : 0 ≤ (y : Int) - dy ∧ (y : Int) - dy ≤ 215
    · rw [if_pos hv, pixel_hShiftPreset _ _ _ hx (by omega)]
      split_ifs <;> first | rfl | omega
    · rw [if_neg hv, if_neg (by omega)]

theorem wf_scrollCopy {m : Memory} (h : m.wf = true) (dx dy : Int) : (m.scrollCopy dx dy).wf = true := by
  unfold scrollCopy
  split <;> split <;> first | exact wf_gather _ _ | exact h

theorem wf_scrollPreset {m : Memory} (h : m.wf = true) (dx dy : Int) (color : Cell) :
    (m.scrollPreset dx dy color).wf = true := by
  unfold scrollPreset
  split <;> split <;> first | exact wf_gather _ _ | exact h

/-! ### Tiles -/

theorem tileLeft_eq (column : BitVec 6) : tileLeft column = min column.toNat 49 * 6 := rfl

theorem tileTop_eq (row : BitVec 5) : tileTop row = min row.toNat 17 * 12 := rfl

theorem tileLeft_le (column : BitVec 6) : tileLeft column ≤ 294 := by
  simp only [tileLeft, tileColumn, Config.TCOLS, Config.TW]; omega

theorem tileTop_le (row : BitVec 5) : tileTop row ≤ 204 := by
  simp only [tileTop, tileRow, Config.TROWS, Config.TH]; omega

theorem mem_tilePositions (rb : Fin 12 × Fin 6) : rb ∈ tilePositions := by
  obtain ⟨r, b⟩ := rb
  simp [tilePositions]

theorem tilePositions_nodup : tilePositions.Nodup := by decide

/-- Painting distinct positions one after another: each named pixel is combined once, every other is
kept. -/
theorem paint_spec (combine : Cell → Cell → Cell) (color : Fin 12 → Fin 6 → Cell) (left top : Nat)
    (hl : left ≤ 294) (ht : top ≤ 204) : ∀ (ps : List (Fin 12 × Fin 6)), ps.Nodup → ∀ m : Memory, m.wf = true →
    let m' := ps.foldl (fun c rb =>
      c.setPixel (left + rb.2.val) (top + rb.1.val)
        (combine (c.pixel (left + rb.2.val) (top + rb.1.val)) (color rb.1 rb.2))) m
    m'.wf = true ∧
    (∀ rb ∈ ps, m'.pixel (left + rb.2.val) (top + rb.1.val) =
      combine (m.pixel (left + rb.2.val) (top + rb.1.val)) (color rb.1 rb.2)) ∧
    (∀ x y, x < 300 → (∀ rb ∈ ps, ¬ (x = left + rb.2.val ∧ y = top + rb.1.val)) →
      m'.pixel x y = m.pixel x y) := by
  intro ps
  induction ps with
  | nil => intro _ m h; exact ⟨h, by simp, fun _ _ _ _ => rfl⟩
  | cons p ps ih =>
    intro hnd m h
    obtain ⟨hp, hnd⟩ := List.nodup_cons.1 hnd
    simp only [List.foldl_cons]
    set x0 := left + p.2.val with hx0
    set y0 := top + p.1.val with hy0
    have hb : x0 < 300 := by omega
    have hr : y0 < 216 := by omega
    set m1 := m.setPixel x0 y0 (combine (m.pixel x0 y0) (color p.1 p.2)) with hm1
    have hw1 : m1.wf = true := wf_setPixel h _ _ _
    obtain ⟨hw, hin, hout⟩ := ih hnd m1 hw1
    have hne : ∀ rb ∈ ps, ¬ (x0 = left + rb.2.val ∧ y0 = top + rb.1.val) := by
      rintro ⟨r, b⟩ hrb ⟨h1, h2⟩
      apply hp
      have e1 : p.2 = b := Fin.ext (by simp only at h1; omega)
      have e2 : p.1 = r := Fin.ext (by simp only at h2; omega)
      rw [← e1, ← e2] at hrb
      exact hrb
    refine ⟨hw, ?_, ?_⟩
    · intro rb hrb
      rcases List.mem_cons.1 hrb with rfl | hrb'
      · rw [hout x0 y0 hb hne, hm1, pixel_setPixel h _ hb hr hb, if_pos ⟨rfl, rfl⟩]
      · rw [hin rb hrb', hm1, pixel_setPixel h _ hb hr (by omega), if_neg]
        rintro ⟨h1, h2⟩
        exact hne rb hrb' ⟨h1.symm, h2.symm⟩
    · intro x y hx hxy
      rw [hout x y hx fun rb hrb => hxy rb (List.mem_cons_of_mem _ hrb), hm1, pixel_setPixel h _ hb hr hx,
        if_neg (hxy p List.mem_cons_self)]

theorem wf_drawTile {m : Memory} (h : m.wf = true) (combine : Cell → Cell → Cell) (color0 color1 : Cell)
    (row : BitVec 5) (column : BitVec 6) (mask : Vector (BitVec 6) 12) :
    (m.drawTile combine color0 color1 row column mask).wf = true :=
  (paint_spec combine (tileColor color0 color1 mask) _ _ (tileLeft_le column) (tileTop_le row) tilePositions
    tilePositions_nodup m h).1

/-- A pixel of the tile after drawing. -/
theorem pixel_drawTile_in {m : Memory} (h : m.wf = true) (combine : Cell → Cell → Cell)
    (color0 color1 : Cell) (row : BitVec 5) (column : BitVec 6) (mask : Vector (BitVec 6) 12) (r : Fin 12)
    (b : Fin 6) :
    (m.drawTile combine color0 color1 row column mask).pixel (tileLeft column + b.val) (tileTop row + r.val) =
      combine (m.pixel (tileLeft column + b.val) (tileTop row + r.val)) (tileColor color0 color1 mask r b) :=
  (paint_spec combine (tileColor color0 color1 mask) _ _ (tileLeft_le column) (tileTop_le row) tilePositions
    tilePositions_nodup m h).2.1 (r, b) (mem_tilePositions _)

/-- A pixel outside the tile after drawing. -/
theorem pixel_drawTile_out {m : Memory} (h : m.wf = true) (combine : Cell → Cell → Cell)
    (color0 color1 : Cell) (row : BitVec 5) (column : BitVec 6) (mask : Vector (BitVec 6) 12) {x y : Nat}
    (hx : x < 300) (hout : ¬ (tileLeft column ≤ x ∧ x < tileLeft column + 6 ∧ tileTop row ≤ y ∧
      y < tileTop row + 12)) :
    (m.drawTile combine color0 color1 row column mask).pixel x y = m.pixel x y :=
  (paint_spec combine (tileColor color0 color1 mask) _ _ (tileLeft_le column) (tileTop_le row) tilePositions
    tilePositions_nodup m h).2.2 x y hx fun rb _ hrb => hout (by omega)

end Sys2Proof.Machine.Memory
end

