-- ==== Sys2Proof/Laws/State.lean ====
section
/-!
SUPPORT. One lemma per field per update of State, so that no proof unfolds a record update.
-/

namespace Sys2Proof.Machine

variable (s : State)

@[simp] theorem State.withCanvas_canvas (m : Memory) :
    (s.withCanvas m).canvas = m := rfl
@[simp] theorem State.withCanvas_palette (m : Memory) :
    (s.withCanvas m).palette = s.palette := rfl
@[simp] theorem State.withCanvas_hoff (m : Memory) :
    (s.withCanvas m).hoff = s.hoff := rfl
@[simp] theorem State.withCanvas_voff (m : Memory) :
    (s.withCanvas m).voff = s.voff := rfl
@[simp] theorem State.withCanvas_prevMp (m : Memory) :
    (s.withCanvas m).prevMp = s.prevMp := rfl
@[simp] theorem State.withCanvas_dirty (m : Memory) :
    (s.withCanvas m).dirty = s.dirty := rfl
@[simp] theorem State.withCanvas_pktPos (m : Memory) :
    (s.withCanvas m).pktPos = s.pktPos := rfl
@[simp] theorem State.withCanvas_lastUpd (m : Memory) :
    (s.withCanvas m).lastUpd = s.lastUpd := rfl
@[simp] theorem State.withCanvas_inbox (m : Memory) :
    (s.withCanvas m).inbox = s.inbox := rfl
@[simp] theorem State.withCanvas_reply (m : Memory) :
    (s.withCanvas m).reply = s.reply := rfl

@[simp] theorem State.withPalette_canvas (pal : Vector Rgb4 16) :
    (s.withPalette pal).canvas = s.canvas := rfl
@[simp] theorem State.withPalette_palette (pal : Vector Rgb4 16) :
    (s.withPalette pal).palette = pal := rfl
@[simp] theorem State.withPalette_hoff (pal : Vector Rgb4 16) :
    (s.withPalette pal).hoff = s.hoff := rfl
@[simp] theorem State.withPalette_voff (pal : Vector Rgb4 16) :
    (s.withPalette pal).voff = s.voff := rfl
@[simp] theorem State.withPalette_prevMp (pal : Vector Rgb4 16) :
    (s.withPalette pal).prevMp = s.prevMp := rfl
@[simp] theorem State.withPalette_dirty (pal : Vector Rgb4 16) :
    (s.withPalette pal).dirty = s.dirty := rfl
@[simp] theorem State.withPalette_pktPos (pal : Vector Rgb4 16) :
    (s.withPalette pal).pktPos = s.pktPos := rfl
@[simp] theorem State.withPalette_lastUpd (pal : Vector Rgb4 16) :
    (s.withPalette pal).lastUpd = s.lastUpd := rfl
@[simp] theorem State.withPalette_inbox (pal : Vector Rgb4 16) :
    (s.withPalette pal).inbox = s.inbox := rfl
@[simp] theorem State.withPalette_reply (pal : Vector Rgb4 16) :
    (s.withPalette pal).reply = s.reply := rfl

@[simp] theorem State.withOffsets_canvas (h : BitVec 3) (v : BitVec 4) :
    (s.withOffsets h v).canvas = s.canvas := rfl
@[simp] theorem State.withOffsets_palette (h : BitVec 3) (v : BitVec 4) :
    (s.withOffsets h v).palette = s.palette := rfl
@[simp] theorem State.withOffsets_hoff (h : BitVec 3) (v : BitVec 4) :
    (s.withOffsets h v).hoff = h := rfl
@[simp] theorem State.withOffsets_voff (h : BitVec 3) (v : BitVec 4) :
    (s.withOffsets h v).voff = v := rfl
@[simp] theorem State.withOffsets_prevMp (h : BitVec 3) (v : BitVec 4) :
    (s.withOffsets h v).prevMp = s.prevMp := rfl
@[simp] theorem State.withOffsets_dirty (h : BitVec 3) (v : BitVec 4) :
    (s.withOffsets h v).dirty = s.dirty := rfl
@[simp] theorem State.withOffsets_pktPos (h : BitVec 3) (v : BitVec 4) :
    (s.withOffsets h v).pktPos = s.pktPos := rfl
@[simp] theorem State.withOffsets_lastUpd (h : BitVec 3) (v : BitVec 4) :
    (s.withOffsets h v).lastUpd = s.lastUpd := rfl
@[simp] theorem State.withOffsets_inbox (h : BitVec 3) (v : BitVec 4) :
    (s.withOffsets h v).inbox = s.inbox := rfl
@[simp] theorem State.withOffsets_reply (h : BitVec 3) (v : BitVec 4) :
    (s.withOffsets h v).reply = s.reply := rfl

@[simp] theorem State.withInbox_canvas (ops : List HostOp) :
    (s.withInbox ops).canvas = s.canvas := rfl
@[simp] theorem State.withInbox_palette (ops : List HostOp) :
    (s.withInbox ops).palette = s.palette := rfl
@[simp] theorem State.withInbox_hoff (ops : List HostOp) :
    (s.withInbox ops).hoff = s.hoff := rfl
@[simp] theorem State.withInbox_voff (ops : List HostOp) :
    (s.withInbox ops).voff = s.voff := rfl
@[simp] theorem State.withInbox_prevMp (ops : List HostOp) :
    (s.withInbox ops).prevMp = s.prevMp := rfl
@[simp] theorem State.withInbox_dirty (ops : List HostOp) :
    (s.withInbox ops).dirty = s.dirty := rfl
@[simp] theorem State.withInbox_pktPos (ops : List HostOp) :
    (s.withInbox ops).pktPos = s.pktPos := rfl
@[simp] theorem State.withInbox_lastUpd (ops : List HostOp) :
    (s.withInbox ops).lastUpd = s.lastUpd := rfl
@[simp] theorem State.withInbox_inbox (ops : List HostOp) :
    (s.withInbox ops).inbox = ops := rfl
@[simp] theorem State.withInbox_reply (ops : List HostOp) :
    (s.withInbox ops).reply = s.reply := rfl

@[simp] theorem State.withReply_canvas (r : Option Reply) :
    (s.withReply r).canvas = s.canvas := rfl
@[simp] theorem State.withReply_palette (r : Option Reply) :
    (s.withReply r).palette = s.palette := rfl
@[simp] theorem State.withReply_hoff (r : Option Reply) :
    (s.withReply r).hoff = s.hoff := rfl
@[simp] theorem State.withReply_voff (r : Option Reply) :
    (s.withReply r).voff = s.voff := rfl
@[simp] theorem State.withReply_prevMp (r : Option Reply) :
    (s.withReply r).prevMp = s.prevMp := rfl
@[simp] theorem State.withReply_dirty (r : Option Reply) :
    (s.withReply r).dirty = s.dirty := rfl
@[simp] theorem State.withReply_pktPos (r : Option Reply) :
    (s.withReply r).pktPos = s.pktPos := rfl
@[simp] theorem State.withReply_lastUpd (r : Option Reply) :
    (s.withReply r).lastUpd = s.lastUpd := rfl
@[simp] theorem State.withReply_inbox (r : Option Reply) :
    (s.withReply r).inbox = s.inbox := rfl
@[simp] theorem State.withReply_reply (r : Option Reply) :
    (s.withReply r).reply = r := rfl

@[simp] theorem State.notePreset_canvas (b : Bool) :
    (s.notePreset b).canvas = s.canvas := rfl
@[simp] theorem State.notePreset_palette (b : Bool) :
    (s.notePreset b).palette = s.palette := rfl
@[simp] theorem State.notePreset_hoff (b : Bool) :
    (s.notePreset b).hoff = s.hoff := rfl
@[simp] theorem State.notePreset_voff (b : Bool) :
    (s.notePreset b).voff = s.voff := rfl
@[simp] theorem State.notePreset_prevMp (b : Bool) :
    (s.notePreset b).prevMp = b := rfl
@[simp] theorem State.notePreset_dirty (b : Bool) :
    (s.notePreset b).dirty = s.dirty := rfl
@[simp] theorem State.notePreset_pktPos (b : Bool) :
    (s.notePreset b).pktPos = s.pktPos := rfl
@[simp] theorem State.notePreset_lastUpd (b : Bool) :
    (s.notePreset b).lastUpd = s.lastUpd := rfl
@[simp] theorem State.notePreset_inbox (b : Bool) :
    (s.notePreset b).inbox = s.inbox := rfl
@[simp] theorem State.notePreset_reply (b : Bool) :
    (s.notePreset b).reply = s.reply := rfl

@[simp] theorem State.countPacket_canvas :
    (s.countPacket).canvas = s.canvas := rfl
@[simp] theorem State.countPacket_palette :
    (s.countPacket).palette = s.palette := rfl
@[simp] theorem State.countPacket_hoff :
    (s.countPacket).hoff = s.hoff := rfl
@[simp] theorem State.countPacket_voff :
    (s.countPacket).voff = s.voff := rfl
@[simp] theorem State.countPacket_prevMp :
    (s.countPacket).prevMp = s.prevMp := rfl
@[simp] theorem State.countPacket_dirty :
    (s.countPacket).dirty = s.dirty := rfl
@[simp] theorem State.countPacket_pktPos :
    (s.countPacket).pktPos = s.pktPos + 1 := rfl
@[simp] theorem State.countPacket_lastUpd :
    (s.countPacket).lastUpd = s.lastUpd := rfl
@[simp] theorem State.countPacket_inbox :
    (s.countPacket).inbox = s.inbox := rfl
@[simp] theorem State.countPacket_reply :
    (s.countPacket).reply = some (.sampleDue (sampleDue (s.pktPos + 1))) := rfl

@[simp] theorem State.noteChange_canvas (changed : Bool) :
    (s.noteChange changed).canvas = s.canvas := by
  cases changed <;> rfl
@[simp] theorem State.noteChange_palette (changed : Bool) :
    (s.noteChange changed).palette = s.palette := by
  cases changed <;> rfl
@[simp] theorem State.noteChange_hoff (changed : Bool) :
    (s.noteChange changed).hoff = s.hoff := by
  cases changed <;> rfl
@[simp] theorem State.noteChange_voff (changed : Bool) :
    (s.noteChange changed).voff = s.voff := by
  cases changed <;> rfl
@[simp] theorem State.noteChange_prevMp (changed : Bool) :
    (s.noteChange changed).prevMp = s.prevMp := by
  cases changed <;> rfl
@[simp] theorem State.noteChange_dirty (changed : Bool) :
    (s.noteChange changed).dirty = (changed || s.dirty) := by
  cases changed <;> rfl
@[simp] theorem State.noteChange_pktPos (changed : Bool) :
    (s.noteChange changed).pktPos = s.pktPos := by
  cases changed <;> rfl
@[simp] theorem State.noteChange_lastUpd (changed : Bool) :
    (s.noteChange changed).lastUpd = if changed then s.pktPos else s.lastUpd := by
  cases changed <;> rfl
@[simp] theorem State.noteChange_inbox (changed : Bool) :
    (s.noteChange changed).inbox = s.inbox := by
  cases changed <;> rfl
@[simp] theorem State.noteChange_reply (changed : Bool) :
    (s.noteChange changed).reply = s.reply := by
  cases changed <;> rfl

@[simp] theorem State.finishMarker_canvas (isMemPreset changed : Bool) :
    (s.finishMarker isMemPreset changed).canvas = s.canvas := by
  simp [State.finishMarker]
@[simp] theorem State.finishMarker_palette (isMemPreset changed : Bool) :
    (s.finishMarker isMemPreset changed).palette = s.palette := by
  simp [State.finishMarker]
@[simp] theorem State.finishMarker_hoff (isMemPreset changed : Bool) :
    (s.finishMarker isMemPreset changed).hoff = s.hoff := by
  simp [State.finishMarker]
@[simp] theorem State.finishMarker_voff (isMemPreset changed : Bool) :
    (s.finishMarker isMemPreset changed).voff = s.voff := by
  simp [State.finishMarker]
@[simp] theorem State.finishMarker_prevMp (isMemPreset changed : Bool) :
    (s.finishMarker isMemPreset changed).prevMp = isMemPreset := by
  simp [State.finishMarker]
@[simp] theorem State.finishMarker_dirty (isMemPreset changed : Bool) :
    (s.finishMarker isMemPreset changed).dirty = (changed || s.dirty) := by
  simp [State.finishMarker]
@[simp] theorem State.finishMarker_pktPos (isMemPreset changed : Bool) :
    (s.finishMarker isMemPreset changed).pktPos = s.pktPos + 1 := by
  simp [State.finishMarker]
@[simp] theorem State.finishMarker_lastUpd (isMemPreset changed : Bool) :
    (s.finishMarker isMemPreset changed).lastUpd = if changed then s.pktPos else s.lastUpd := by
  simp [State.finishMarker]
@[simp] theorem State.finishMarker_inbox (isMemPreset changed : Bool) :
    (s.finishMarker isMemPreset changed).inbox = s.inbox := by
  simp [State.finishMarker]
@[simp] theorem State.finishMarker_reply (isMemPreset changed : Bool) :
    (s.finishMarker isMemPreset changed).reply = some (.sampleDue (sampleDue (s.pktPos + 1))) := by
  simp [State.finishMarker]

@[simp] theorem State.issue_canvas (ops : List HostOp) :
    (s.issue ops).canvas = s.canvas := rfl
@[simp] theorem State.issue_palette (ops : List HostOp) :
    (s.issue ops).palette = s.palette := rfl
@[simp] theorem State.issue_hoff (ops : List HostOp) :
    (s.issue ops).hoff = s.hoff := rfl
@[simp] theorem State.issue_voff (ops : List HostOp) :
    (s.issue ops).voff = s.voff := rfl
@[simp] theorem State.issue_prevMp (ops : List HostOp) :
    (s.issue ops).prevMp = s.prevMp := rfl
@[simp] theorem State.issue_dirty (ops : List HostOp) :
    (s.issue ops).dirty = s.dirty := rfl
@[simp] theorem State.issue_pktPos (ops : List HostOp) :
    (s.issue ops).pktPos = s.pktPos := rfl
@[simp] theorem State.issue_lastUpd (ops : List HostOp) :
    (s.issue ops).lastUpd = s.lastUpd := rfl
@[simp] theorem State.issue_inbox (ops : List HostOp) :
    (s.issue ops).inbox = s.inbox ++ ops := rfl
@[simp] theorem State.issue_reply (ops : List HostOp) :
    (s.issue ops).reply = s.reply := rfl

@[simp] theorem State.placeFirst_canvas (p : Packet) :
    (s.placeFirst p).canvas = s.canvas := rfl
@[simp] theorem State.placeFirst_palette (p : Packet) :
    (s.placeFirst p).palette = s.palette := rfl
@[simp] theorem State.placeFirst_hoff (p : Packet) :
    (s.placeFirst p).hoff = s.hoff := rfl
@[simp] theorem State.placeFirst_voff (p : Packet) :
    (s.placeFirst p).voff = s.voff := rfl
@[simp] theorem State.placeFirst_prevMp (p : Packet) :
    (s.placeFirst p).prevMp = s.prevMp := rfl
@[simp] theorem State.placeFirst_dirty (p : Packet) :
    (s.placeFirst p).dirty = s.dirty := rfl
@[simp] theorem State.placeFirst_pktPos (p : Packet) :
    (s.placeFirst p).pktPos = s.pktPos := rfl
@[simp] theorem State.placeFirst_lastUpd (p : Packet) :
    (s.placeFirst p).lastUpd = s.lastUpd := rfl
@[simp] theorem State.placeFirst_inbox (p : Packet) :
    (s.placeFirst p).inbox = .pushPkt p :: s.inbox := rfl
@[simp] theorem State.placeFirst_reply (p : Packet) :
    (s.placeFirst p).reply = s.reply := rfl

@[simp] theorem State.withFetchWord_canvas (nbits w : Nat) :
    (s.withFetchWord nbits w).canvas = s.canvas := rfl
@[simp] theorem State.withFetchWord_palette (nbits w : Nat) :
    (s.withFetchWord nbits w).palette = s.palette := rfl
@[simp] theorem State.withFetchWord_hoff (nbits w : Nat) :
    (s.withFetchWord nbits w).hoff = s.hoff := rfl
@[simp] theorem State.withFetchWord_voff (nbits w : Nat) :
    (s.withFetchWord nbits w).voff = s.voff := rfl
@[simp] theorem State.withFetchWord_prevMp (nbits w : Nat) :
    (s.withFetchWord nbits w).prevMp = s.prevMp := rfl
@[simp] theorem State.withFetchWord_dirty (nbits w : Nat) :
    (s.withFetchWord nbits w).dirty = s.dirty := rfl
@[simp] theorem State.withFetchWord_pktPos (nbits w : Nat) :
    (s.withFetchWord nbits w).pktPos = s.pktPos := rfl
@[simp] theorem State.withFetchWord_lastUpd (nbits w : Nat) :
    (s.withFetchWord nbits w).lastUpd = s.lastUpd := rfl
@[simp] theorem State.withFetchWord_inbox (nbits w : Nat) :
    (s.withFetchWord nbits w).inbox = .pushPkt (packetOfTableWord nbits w) :: s.inbox := rfl
@[simp] theorem State.withFetchWord_reply (nbits w : Nat) :
    (s.withFetchWord nbits w).reply = s.reply := rfl

@[simp] theorem State.deliver_canvas (b : List Byte) :
    (s.deliver b).canvas = s.canvas := rfl
@[simp] theorem State.deliver_palette (b : List Byte) :
    (s.deliver b).palette = s.palette := rfl
@[simp] theorem State.deliver_hoff (b : List Byte) :
    (s.deliver b).hoff = s.hoff := rfl
@[simp] theorem State.deliver_voff (b : List Byte) :
    (s.deliver b).voff = s.voff := rfl
@[simp] theorem State.deliver_prevMp (b : List Byte) :
    (s.deliver b).prevMp = s.prevMp := rfl
@[simp] theorem State.deliver_dirty (b : List Byte) :
    (s.deliver b).dirty = s.dirty := rfl
@[simp] theorem State.deliver_pktPos (b : List Byte) :
    (s.deliver b).pktPos = s.pktPos := rfl
@[simp] theorem State.deliver_lastUpd (b : List Byte) :
    (s.deliver b).lastUpd = s.lastUpd := rfl
@[simp] theorem State.deliver_inbox (b : List Byte) :
    (s.deliver b).inbox = s.inbox ++ (framePackets b).map .pushPkt := rfl
@[simp] theorem State.deliver_reply (b : List Byte) :
    (s.deliver b).reply = s.reply := rfl

/-! Replacing a field by the value it holds changes nothing. -/

theorem State.withCanvas_self {m : Memory} (h : s.canvas = m) : s.withCanvas m = s := by subst h; rfl

theorem State.withPalette_self {pal : Vector Rgb4 16} (h : s.palette = pal) : s.withPalette pal = s := by
  subst h; rfl

theorem State.withOffsets_self {h : BitVec 3} {v : BitVec 4} (hh : s.hoff = h) (hv : s.voff = v) :
    s.withOffsets h v = s := by
  subst hh hv; rfl

end Sys2Proof.Machine
end

