-- ==== Sys2Proof/Laws/Ops.lean ====
section
/-!
SUPPORT. One lemma per shared operation: the clamps, the colour expansion, the palette load, and what
any command can do to the state.
-/

namespace Sys2Proof.Machine

/-! ### Operands -/

theorem toNat_clampHOffset (h : BitVec 3) : (clampHOffset h).toNat = min h.toNat 5 := by
  revert h; decide

theorem toNat_clampVOffset (v : BitVec 4) : (clampVOffset v).toNat = min v.toNat 11 := by
  revert v; decide

theorem toNat_expandChannel (ch : BitVec 4) : (expandChannel ch).toNat = ch.toNat * 17 := by
  revert ch; decide

theorem expandChannel_inj {a b : BitVec 4} (h : expandChannel a = expandChannel b) : a = b := by
  have := congrArg BitVec.toNat h
  rw [toNat_expandChannel, toNat_expandChannel] at this
  exact BitVec.eq_of_toNat_eq (by omega)

theorem scrollDx_eq (hCmd : BitVec 2) :
    scrollDx hCmd = if hCmd.toNat = 1 then 6 else if hCmd.toNat = 2 then -6 else 0 := by
  revert hCmd; decide

theorem scrollDy_eq (vCmd : BitVec 2) :
    scrollDy vCmd = if vCmd.toNat = 1 then 12 else if vCmd.toNat = 2 then -12 else 0 := by
  revert vCmd; decide

theorem sampleDue_eq (pos : Pos) : sampleDue pos = (pos.toNat % 12 == 0) := rfl

/-! ### The palette -/

theorem getElem_loadPalette (base : Nat) (colors : Vector Rgb4 8) (pal : Vector Rgb4 16) (j : Nat)
    (hj : j < 16) : (loadPalette base colors pal)[j] =
      if h : base ≤ j ∧ j < base + 8 then colors[j - base] else pal[j] := by
  simp [loadPalette]

theorem paletteChanges_iff {base : Nat} (hb : base ≤ 8) (colors : Vector Rgb4 8) (pal : Vector Rgb4 16) :
    paletteChanges base colors pal = true ↔
      ∃ i : Fin 8, pal[base + i.val]'(by omega) ≠ colors[i] := by
  simp only [paletteChanges, List.any_eq_true, List.mem_finRange, true_and, decide_eq_true_eq]
  refine exists_congr fun i => ?_
  rw [Vector.getElem?_eq_getElem (by omega)]
  simp

/-- A load changes the palette exactly when it reports a change. -/
theorem loadPalette_eq_iff {base : Nat} (hb : base ≤ 8) (colors : Vector Rgb4 8) (pal : Vector Rgb4 16) :
    loadPalette base colors pal = pal ↔ paletteChanges base colors pal = false := by
  rw [← Bool.not_eq_true, paletteChanges_iff hb, not_exists]
  constructor
  · intro h i hi
    apply hi
    have := getElem_loadPalette base colors pal (base + i.val) (by omega)
    rw [h, dif_pos (by omega)] at this
    simpa using this
  · intro h
    apply Vector.ext
    intro j hj
    rw [getElem_loadPalette]
    split
    · next hr =>
      have := h ⟨j - base, by omega⟩
      simp only [ne_eq, not_not] at this
      simpa [show base + (j - base) = j by omega] using this.symm
    · rfl

/-! ### What a command can do -/

/-- Every command answers a next state: it writes a canvas, a palette and a sub-position, then the marker
bookkeeping follows. The canvas stays canonical and the sub-position legal. -/
theorem exec_next (i : Instr) (s : State) : ∃ m pal h v changed,
    exec i s = .next ((((s.withCanvas m).withPalette pal).withOffsets h v).finishMarker
      (i.opcode == .memPreset) changed) ∧
    (s.canvas.wf = true → m.wf = true) ∧
    (s.hoff.toNat ≤ 5 → h.toNat ≤ 5) ∧ (s.voff.toNat ≤ 11 → v.toNat ≤ 11) := by
  cases i with
  | memPreset color rep =>
    by_cases hr : (s.prevMp && rep != 0) = true
    · refine ⟨s.canvas, s.palette, s.hoff, s.voff, false, ?_, id, id, id⟩
      simp only [exec, execMemPreset, hr, if_true, s.withCanvas_self, s.withPalette_self, s.withOffsets_self]
      rfl
    · refine ⟨Memory.fill color, s.palette, s.hoff, s.voff, true, ?_, fun _ => Memory.wf_fill color, id, id⟩
      simp only [exec, execMemPreset, hr, if_false, Bool.false_eq_true]
      rw [State.withPalette_self _ (by rfl), State.withOffsets_self _ (by rfl) (by rfl)]
      rfl
  | borderPreset color =>
    refine ⟨s.canvas.fillBorder color, s.palette, s.hoff, s.voff, true, ?_,
      fun _ => Memory.wf_fillBorder _ _, id, id⟩
    rw [State.withPalette_self _ (by rfl), State.withOffsets_self _ (by rfl) (by rfl)]
    rfl
  | tile color0 color1 row column mask =>
    refine ⟨s.canvas.drawTile (fun _ c => c) color0 color1 row column mask, s.palette, s.hoff, s.voff, true,
      ?_, fun h => Memory.wf_drawTile h _ _ _ _ _ _, id, id⟩
    rw [State.withPalette_self _ (by rfl), State.withOffsets_self _ (by rfl) (by rfl)]
    rfl
  | tileXor color0 color1 row column mask =>
    refine ⟨s.canvas.drawTile (fun old c => old ^^^ c) color0 color1 row column mask, s.palette, s.hoff,
      s.voff, true, ?_, fun h => Memory.wf_drawTile h _ _ _ _ _ _, id, id⟩
    rw [State.withPalette_self _ (by rfl), State.withOffsets_self _ (by rfl) (by rfl)]
    rfl
  | scrollPreset color hCmd hOffset vCmd vOffset =>
    refine ⟨s.canvas.scrollPreset (scrollDx hCmd) (scrollDy vCmd) color, s.palette, clampHOffset hOffset,
      clampVOffset vOffset, true, ?_, fun h => Memory.wf_scrollPreset h _ _ _,
      fun _ => by rw [toNat_clampHOffset]; omega, fun _ => by rw [toNat_clampVOffset]; omega⟩
    rw [State.withPalette_self _ (by rfl)]
    rfl
  | scrollCopy hCmd hOffset vCmd vOffset =>
    refine ⟨s.canvas.scrollCopy (scrollDx hCmd) (scrollDy vCmd), s.palette, clampHOffset hOffset,
      clampVOffset vOffset, true, ?_, fun h => Memory.wf_scrollCopy h _ _,
      fun _ => by rw [toNat_clampHOffset]; omega, fun _ => by rw [toNat_clampVOffset]; omega⟩
    rw [State.withPalette_self _ (by rfl)]
    rfl
  | loadClutLo colors =>
    refine ⟨s.canvas, loadPalette 0 colors s.palette, s.hoff, s.voff, paletteChanges 0 colors s.palette,
      ?_, id, id, id⟩
    rw [State.withCanvas_self _ (by rfl), State.withOffsets_self _ (by rfl) (by rfl)]
    rfl
  | loadClutHi colors =>
    refine ⟨s.canvas, loadPalette 8 colors s.palette, s.hoff, s.voff, paletteChanges 8 colors s.palette,
      ?_, id, id, id⟩
    rw [State.withCanvas_self _ (by rfl), State.withOffsets_self _ (by rfl) (by rfl)]
    rfl
  | defTransp =>
    refine ⟨s.canvas, s.palette, s.hoff, s.voff, false, ?_, id, id, id⟩
    rw [State.withCanvas_self _ (by rfl), State.withPalette_self _ (by rfl),
      State.withOffsets_self _ (by rfl) (by rfl)]
    rfl

/-- Every packet answers a next state; it leaves the queue alone, advances the position by one, and
keeps the canvas canonical and the sub-position legal. -/
theorem applyPacket_next (p : Packet) (s : State) : ∃ t, applyPacket p s = .next t ∧
    t.inbox = s.inbox ∧ t.pktPos = s.pktPos + 1 ∧
    t.reply = some (.sampleDue (sampleDue (s.pktPos + 1))) ∧
    (s.canvas.wf = true → t.canvas.wf = true) ∧
    (s.hoff.toNat ≤ 5 → t.hoff.toNat ≤ 5) ∧ (s.voff.toNat ≤ 11 → t.voff.toNat ≤ 11) := by
  unfold applyPacket
  split
  · next i _ =>
    obtain ⟨m, pal, h, v, ch, he, hm, hh, hv⟩ := exec_next i s
    exact ⟨_, he, by simp, by simp, by simp, by simpa using hm, by simpa using hh, by simpa using hv⟩
  · exact ⟨_, rfl, by simp, by simp, by simp, by simp, by simp, by simp⟩
  · exact ⟨_, rfl, by simp, by simp, by simp, by simp, by simp, by simp⟩

end Sys2Proof.Machine
end

