-- ==== Sys2Proof/Laws/PerInstr.lean ====
section
/-!
SUPPORT. Statements about every instruction as syntax, one lemma per constructor.
-/

namespace Sys2Proof.Laws.EncodedHeader

/-- The "match" word of an instruction's row in opcode_table.json. -/
def tableMatch : Opcode → BitVec 16
  | .memPreset => 0x0901
  | .borderPreset => 0x0902
  | .tile => 0x0906
  | .scrollPreset => 0x0914
  | .scrollCopy => 0x0918
  | .defTransp => 0x091C
  | .loadClutLo => 0x091E
  | .loadClutHi => 0x091F
  | .tileXor => 0x0926

/-- The encoding's first word `p[0] || p[1]`, under the table's mask, is the row's "match" (30_encoding.md
R77). -/
def Statement (i : Instr) : Prop :=
  ((encode i)[0] ++ (encode i)[1] : BitVec 16) &&& 0x3F3F = tableMatch i.opcode

theorem header_of_opcode (op : Opcode) (d : Vector Byte 16) :
    ((packetOf (codeOfOpcode op) d)[0] ++ (packetOf (codeOfOpcode op) d)[1] : BitVec 16) &&& 0x3F3F =
      tableMatch op := by
  have h0 : (packetOf (codeOfOpcode op) d)[0] = marker.setWidth 8 := rfl
  have h1 : (packetOf (codeOfOpcode op) d)[1] = (codeOfOpcode op).setWidth 8 := rfl
  rw [h0, h1]
  cases op <;> decide

theorem memPreset (color rep : BitVec 4) : Statement (.memPreset color rep) :=
  header_of_opcode _ _

theorem borderPreset (color : BitVec 4) : Statement (.borderPreset color) :=
  header_of_opcode _ _

theorem tile (color0 color1 : BitVec 4) (row : BitVec 5) (column : BitVec 6)
    (mask : Vector (BitVec 6) 12) : Statement (.tile color0 color1 row column mask) :=
  header_of_opcode _ _

theorem tileXor (color0 color1 : BitVec 4) (row : BitVec 5) (column : BitVec 6)
    (mask : Vector (BitVec 6) 12) : Statement (.tileXor color0 color1 row column mask) :=
  header_of_opcode _ _

theorem scrollPreset (color : BitVec 4) (hCmd : BitVec 2) (hOffset : BitVec 3) (vCmd : BitVec 2)
    (vOffset : BitVec 4) : Statement (.scrollPreset color hCmd hOffset vCmd vOffset) :=
  header_of_opcode _ _

theorem scrollCopy (hCmd : BitVec 2) (hOffset : BitVec 3) (vCmd : BitVec 2) (vOffset : BitVec 4) :
    Statement (.scrollCopy hCmd hOffset vCmd vOffset) :=
  header_of_opcode _ _

theorem loadClutLo (colors : Vector Rgb4 8) : Statement (.loadClutLo colors) :=
  header_of_opcode _ _

theorem loadClutHi (colors : Vector Rgb4 8) : Statement (.loadClutHi colors) :=
  header_of_opcode _ _

theorem defTransp : Statement .defTransp :=
  header_of_opcode _ _

end Sys2Proof.Laws.EncodedHeader
end

