-- ==== Sys2Proof/Laws/Step.lean ====
section
/-!
SUPPORT. What one step can do: the idle step, the step of a waiting operation, and the two together as
one case analysis.
-/

namespace Sys2Proof.Machine

theorem step_nil {s : State} (h : s.inbox = []) : step s = .next s := by
  simp [step, takeOp, h]

theorem step_cons {s : State} {op : HostOp} {ops : List HostOp} (h : s.inbox = op :: ops) :
    step s = applyOp op (s.withInbox ops) := by
  simp [step, takeOp, h]

/-- A step that answers a next state was idle, or applied the oldest waiting operation. -/
theorem step_cases {s t : State} (h : step s = .next t) :
    (s.inbox = [] ∧ t = s) ∨
    ∃ op ops, s.inbox = op :: ops ∧ applyOp op (s.withInbox ops) = .next t := by
  cases hs : s.inbox with
  | nil =>
    rw [step_nil hs] at h
    exact .inl ⟨rfl, by injection h with h; exact h.symm⟩
  | cons op ops => exact .inr ⟨op, ops, rfl, by rw [← step_cons hs, h]⟩

/-- An operation the host may issue answers a next state, leaves the queue alone, and keeps the canvas
canonical and the sub-position legal. -/
theorem applyOp_legal {op : HostOp} {s : State} (hop : Safety.legalOp op = true) :
    ∃ t, applyOp op s = .next t ∧ t.inbox = s.inbox ∧ (Safety.Inv s → Safety.Inv t) := by
  cases op with
  | pushPkt p =>
    obtain ⟨t, ht, hi, -, -, hc, hh, hv⟩ := applyPacket_next p s
    exact ⟨t, ht, hi, fun h => ⟨hc h.canvas_wf, hh h.hoff_legal, hv h.voff_legal⟩⟩
  | rdPix x y =>
    have hxy : x < 300 ∧ y < 216 := by simpa [Safety.legalOp] using hop
    exact ⟨_, if_pos hxy, rfl, fun h => ⟨h.canvas_wf, h.hoff_legal, h.voff_legal⟩⟩
  | rdWin u v =>
    have huv : u < 288 ∧ v < 192 := by simpa [Safety.legalOp] using hop
    exact ⟨_, if_pos huv, rfl, fun h => ⟨h.canvas_wf, h.hoff_legal, h.voff_legal⟩⟩
  | rdPal _ => exact ⟨_, rfl, rfl, fun h => ⟨h.canvas_wf, h.hoff_legal, h.voff_legal⟩⟩
  | rdStatus => exact ⟨_, rfl, rfl, fun h => ⟨h.canvas_wf, h.hoff_legal, h.voff_legal⟩⟩
  | clearDirty => exact ⟨_, rfl, rfl, fun h => ⟨h.canvas_wf, h.hoff_legal, h.voff_legal⟩⟩
  | reset => exact ⟨_, rfl, rfl, fun _ => ⟨rfl, Nat.zero_le 5, Nat.zero_le 11⟩⟩
  | restart => exact ⟨_, rfl, rfl, fun h => ⟨h.canvas_wf, h.hoff_legal, h.voff_legal⟩⟩

/-! ### The framer, with the packet length as a numeral -/

theorem packetsFrom_succ (k : Nat) (b : List Byte) :
    packetsFrom (k + 1) b = packetFrom b :: packetsFrom k (b.drop 24) := rfl

theorem framePackets_eq (b : List Byte) : framePackets b = packetsFrom (b.length / 24) b := rfl

theorem length_packetsFrom (k : Nat) (b : List Byte) : (packetsFrom k b).length = k := by
  induction k generalizing b with
  | zero => rfl
  | succ k ih => rw [packetsFrom_succ, List.length_cons, ih]

/-! ### Runs -/

/-- A run of one step more begins with a step. -/
theorem run_succ {s t : State} (k : Nat) (h : step s = .next t) :
    Host.Core.run Sys2Proof.core (k + 1) s = Host.Core.run Sys2Proof.core k t := by
  simp only [Host.Core.run, show Host.Core.step Sys2Proof.core s = .next t from h]

end Sys2Proof.Machine
end

