-- ==== Sys2Proof/Tests/Slice0.lean ====
section
/-!
SUPPORT. The model's own tests. Expected values are those of 95_test_vectors.md (the vector is named at each
test) or are computed by hand from the rule named. The witness theorems show that the hypotheses of the
statements can be met.
-/

namespace Sys2Proof.Tests

open Sys2Proof Sys2Proof.Machine Sys2Proof.Claims

/-! The tests are elaborated one after another, which bounds the threads a check of them takes. -/

set_option Elab.async false

/-- What `f` sees of the next state, if there is one. -/
def after {α : Type} (r : Result) (f : State → α) : Option α :=
  match r with
  | .next t => some (f t)
  | .fault _ => none
  | .refused _ => none

/-- Why a result is refused, if it is. -/
def refusal (r : Result) : Option Refusal :=
  match r with
  | .next _ => none
  | .fault _ => none
  | .refused why => some why

/-- The reset state with a canvas. -/
def withCells (m : Memory) : State := State.reset.withCanvas m

/-- The reset state with operations waiting. -/
def waiting (ops : List HostOp) : State := State.reset.withInbox ops

/-- Twelve full mask rows. -/
def fullMask : Vector (BitVec 6) 12 := Vector.replicate 12 0x3F

/-- Eight black colours. -/
def black : Vector Rgb4 8 := Vector.replicate 8 ⟨0, 0, 0⟩

/-- A packet of a command byte, an instruction byte and two data bytes, everything else 0. -/
def pkt (b0 b1 d0 d1 : Byte) : Packet :=
  #v[b0, b1, 0, 0, d0, d1, 0, 0, 0, 0, 0, 0, 0, 0, 0, 0, 0, 0, 0, 0, 0, 0, 0, 0]

/-! ### Well-formedness: each check refuses an ill-formed line (30_encoding.md R87, R89) -/

theorem test_wellFormed_accepts :
    (AsmLine.memPreset 15 15).wellFormed = true ∧ (AsmLine.borderPreset 15).wellFormed = true ∧
    (AsmLine.tile 15 15 31 63 (List.replicate 12 63)).wellFormed = true ∧
    (AsmLine.scrollPreset 15 3 7 3 15).wellFormed = true ∧ (AsmLine.scrollCopy 3 7 3 15).wellFormed = true ∧
    (AsmLine.loadClutLo (List.replicate 8 (15, 15, 15))).wellFormed = true ∧
    (AsmLine.insn 63).wellFormed = true ∧ (AsmLine.raw (List.replicate 24 255)).wellFormed = true := by decide

theorem test_wellFormed_refuses_preset_operands :
    (AsmLine.memPreset 16 0).wellFormed = false ∧ (AsmLine.memPreset 0 16).wellFormed = false ∧
    (AsmLine.borderPreset 16).wellFormed = false := by decide

theorem test_wellFormed_refuses_tile_operands :
    (AsmLine.tile 16 0 0 0 (List.replicate 12 0)).wellFormed = false ∧
    (AsmLine.tile 0 16 0 0 (List.replicate 12 0)).wellFormed = false ∧
    (AsmLine.tile 0 0 32 0 (List.replicate 12 0)).wellFormed = false ∧
    (AsmLine.tile 0 0 0 64 (List.replicate 12 0)).wellFormed = false ∧
    (AsmLine.tileXor 0 0 0 0 (List.replicate 11 0)).wellFormed = false ∧
    (AsmLine.tileXor 0 0 0 0 (List.replicate 13 0)).wellFormed = false ∧
    (AsmLine.tileXor 0 0 0 0 (List.replicate 11 0 ++ [64])).wellFormed = false := by decide

theorem test_wellFormed_refuses_scroll_operands :
    (AsmLine.scrollPreset 16 0 0 0 0).wellFormed = false ∧ (AsmLine.scrollPreset 0 4 0 0 0).wellFormed = false ∧
    (AsmLine.scrollCopy 0 8 0 0).wellFormed = false ∧ (AsmLine.scrollCopy 0 0 4 0).wellFormed = false ∧
    (AsmLine.scrollCopy 0 0 0 16).wellFormed = false := by decide

theorem test_wellFormed_refuses_colours :
    (AsmLine.loadClutLo (List.replicate 7 (0, 0, 0))).wellFormed = false ∧
    (AsmLine.loadClutLo (List.replicate 9 (0, 0, 0))).wellFormed = false ∧
    (AsmLine.loadClutLo ((16, 0, 0) :: List.replicate 7 (0, 0, 0))).wellFormed = false ∧
    (AsmLine.loadClutHi ((0, 16, 0) :: List.replicate 7 (0, 0, 0))).wellFormed = false ∧
    (AsmLine.loadClutHi ((0, 0, 16) :: List.replicate 7 (0, 0, 0))).wellFormed = false := by decide

theorem test_wellFormed_refuses_other_lines :
    (AsmLine.insn 64).wellFormed = false ∧ (AsmLine.raw (List.replicate 23 0)).wellFormed = false ∧
    (AsmLine.raw (List.replicate 25 0)).wellFormed = false ∧
    (AsmLine.raw (256 :: List.replicate 23 0)).wellFormed = false := by decide

/-! ### The assembler (30_encoding.md R87 to R89; bytes of 95_test_vectors.md section 3) -/

/-- P1, packet 2. -/
theorem test_assemble_memPreset_text :
    assembleText "MEMPRESET 3, 1" = some [pkt 0x09 0x01 3 1] := by decide +kernel

/-- P1, packet 12. -/
theorem test_assemble_tile_text :
    assembleText "TILE 3, 5, 1, 1, 0x0C, 0x0C, 0x0C, 0x0C, 0x3F, 0x3F, 0x3F, 0x3F, 0x0C, 0x0C, 0x0C, 0x0C" =
      some [#v[0x09, 0x06, 0, 0, 3, 5, 1, 1, 0x0C, 0x0C, 0x0C, 0x0C, 0x3F, 0x3F, 0x3F, 0x3F, 0x0C, 0x0C,
        0x0C, 0x0C, 0, 0, 0, 0]] := by decide +kernel

/-- P1, packet 0. -/
theorem test_assemble_loadClutLo_text :
    assembleText "LOADCLUTLO 0 0 0, 0 0 0, 0 0 0, 15 0 15, 0 0 0, 0 15 0, 0 0 0, 0 0 0" =
      some [#v[0x09, 0x1E, 0, 0, 0, 0, 0, 0, 0, 0, 0x3C, 0x0F, 0, 0, 0x03, 0x30, 0, 0, 0, 0, 0, 0, 0, 0]] := by
  decide +kernel

/-- P2, packets 2 and 4. -/
theorem test_assemble_scroll_text :
    assembleText "SCROLLCOPY 2, 7, 2, 15" =
      some [#v[0x09, 0x18, 0, 0, 0, 0x27, 0x2F, 0, 0, 0, 0, 0, 0, 0, 0, 0, 0, 0, 0, 0, 0, 0, 0, 0]] ∧
    assembleText "SCROLLPRESET 9, 1, 3, 0, 4" =
      some [#v[0x09, 0x14, 0, 0, 9, 0x13, 4, 0, 0, 0, 0, 0, 0, 0, 0, 0, 0, 0, 0, 0, 0, 0, 0, 0]] := by
  decide +kernel

/-- R89, and the vectors V33 (its first bytes) and V71. -/
theorem test_assemble_pseudo_text :
    assembleText "PAD" = some [pkt 0 0 0 0] ∧ assembleText "PAD 2" = some [pkt 0 0 0 0, pkt 0 0 0 0] ∧
    assembleText "INSN 63" = some [pkt 0x09 0x3F 0 0] ∧
    assembleText "RAW 09 06 00 00 C1 F2 00 00 00 00 00 00 00 00 00 00 00 00 00 00 00 00 00 00" =
      some [pkt 0x09 0x06 0xC1 0xF2] := by decide +kernel

/-- R87: an operand that does not fit is an error; so is a wrong number of operands. -/
theorem test_assemble_refuses_text :
    assembleText "MEMPRESET 16, 0" = none ∧ assembleText "MEMPRESET 3" = none ∧
    assembleText "BORDERPRESET 0x10" = none ∧ assembleText "NOP" = none ∧ assembleText "INSN 64" = none := by
  decide +kernel

/-! ### Decoding and stepping the table's words (opcode_table.json, 30_encoding.md R77) -/

theorem test_table_words_decode :
    decodeTableWord 16 0x0901 = some (.memPreset 0 0) ∧ decodeTableWord 16 0x0902 = some (.borderPreset 0) ∧
    decodeTableWord 16 0x0906 = some (.tile 0 0 0 0 (Vector.replicate 12 0)) ∧
    decodeTableWord 16 0x0926 = some (.tileXor 0 0 0 0 (Vector.replicate 12 0)) ∧
    decodeTableWord 16 0x0914 = some (.scrollPreset 0 0 0 0 0) ∧
    decodeTableWord 16 0x0918 = some (.scrollCopy 0 0 0 0) ∧
    decodeTableWord 16 0x091E = some (.loadClutLo black) ∧
    decodeTableWord 16 0x091F = some (.loadClutHi black) ∧ decodeTableWord 16 0x091C = some .defTransp := by
  decide +kernel

/-- R76 and R72: code 0, the unlisted code 5, and a command byte that is not the marker. -/
theorem test_table_words_of_no_command :
    decodeTableWord 16 0x0900 = none ∧ decodeTableWord 16 0x0905 = none ∧ decodeTableWord 16 0x0801 = none := by
  decide +kernel

/-- V6 to V10. -/
theorem test_header_top_bits_ignored :
    decode (pkt 0x49 0x01 3 0) = .ok (.memPreset 3 0) ∧ decode (pkt 0x89 0x41 3 0) = .ok (.memPreset 3 0) ∧
    (∃ i, decode (pkt 0xC9 0x66 0 0) = .ok i ∧ i.opcode = .tileXor) ∧
    (∃ i, decode (pkt 0x09 0xC6 0 0) = .ok i ∧ i.opcode = .tile) ∧
    decode (pkt 0x08 0x01 0 0) = .error .nonMarker ∧ decode (pkt 0x0B 0x01 0 0) = .error .nonMarker ∧
    decode (pkt 0x19 0x01 0 0) = .error .nonMarker ∧ decode (pkt 0xFF 0x01 0 0) = .error .nonMarker := by
  refine ⟨by decide +kernel, by decide +kernel, ⟨_, rfl, rfl⟩, ⟨_, rfl, rfl⟩, ?_⟩
  decide +kernel

/-- P2, packets 2 and 4: the scroll fields bit by bit. -/
theorem test_scroll_word_decodes :
    decode #v[0x09, 0x18, 0, 0, 0x00, 0x27, 0x2F, 0, 0, 0, 0, 0, 0, 0, 0, 0, 0, 0, 0, 0, 0, 0, 0, 0] =
      .ok (.scrollCopy 2 7 2 15) ∧
    decode #v[0x09, 0x14, 0, 0, 0x09, 0x13, 0x04, 0, 0, 0, 0, 0, 0, 0, 0, 0, 0, 0, 0, 0, 0, 0, 0, 0] =
      .ok (.scrollPreset 9 1 3 0 4) := by decide +kernel

/-- V33: bits 7:6 set in every field byte. -/
theorem test_tile_word_decodes :
    decode #v[0x09, 0x06, 0, 0, 0xC1, 0xF2, 0xE2, 0xC3, 0xFF, 0, 0, 0, 0, 0, 0, 0, 0, 0, 0, 0, 0, 0, 0, 0] =
      .ok (.tile 1 2 2 3 #v[0x3F, 0, 0, 0, 0, 0, 0, 0, 0, 0, 0, 0]) := by decide +kernel

/-- V60 to V66: the colour pairs. -/
theorem test_colour_pairs_unpack :
    unpackColor 0x3C 0x0F = ⟨15, 0, 15⟩ ∧ unpackColor 0x3F 0x3F = ⟨15, 15, 15⟩ ∧
    unpackColor 0xFF 0xFF = ⟨15, 15, 15⟩ ∧ unpackColor 0x01 0x20 = ⟨0, 6, 0⟩ ∧
    unpackColor 0x02 0x10 = ⟨0, 9, 0⟩ ∧ unpackColor 0x15 0x2A = ⟨5, 6, 10⟩ ∧
    expandColor ⟨5, 6, 10⟩ = ⟨85, 102, 170⟩ := by decide

/-- Every table word runs as the first packet after reset (R230). -/
theorem test_table_words_step :
    ∀ k ∈ [0x01, 0x02, 0x06, 0x26, 0x14, 0x18, 0x1E, 0x1F, 0x1C],
      after (step (State.reset.withFetchWord 16 (0x0900 + k))) State.pktPos = some 1 := by decide +kernel

/-! ### Presets -/

/-- V20. -/
theorem test_memPreset_applied :
    after (exec (.memPreset 5 7) State.reset) (fun t => (t.canvas.pixel 0 0, t.canvas.pixel 7 0, t.prevMp,
      t.dirty)) = some (5, 5, true, true) := by decide +kernel

/-- V22. -/
theorem test_memPreset_suppressed :
    after (exec (.memPreset 9 1) { withCells [(0, 5)] with prevMp := true })
      (fun t => (t.canvas, t.prevMp, t.dirty, t.lastUpd, t.pktPos)) = some ([(0, 5)], true, false, 0, 1) := by
  decide +kernel

/-- V25, at a corner. -/
theorem test_borderPreset_paints_the_border :
    after (exec (.borderPreset 7) (withCells [(0, 3)]))
      (fun t => (t.canvas.pixel 0 0, t.prevMp, t.dirty)) = some (7, false, true) := by decide +kernel

/-- V25's coordinates: which cells are border (20_memory.md R52, 90_conflicts.md C1). -/
theorem test_border_coordinates :
    (∀ c ∈ [(0, 0), (299, 215), (5, 12), (294, 203), (6, 11), (6, 204)], inBorder c.1 c.2 = true) ∧
    (∀ c ∈ [(6, 12), (293, 203), (150, 100)], inBorder c.1 c.2 = false) := by decide

/-! ### Tiles -/

/-- V30 and V31: the most significant mask bit is the leftmost pixel. -/
theorem test_tile_mask_bit_order :
    after (exec (.tile 1 2 0 0 #v[0x20, 0, 0, 0, 0, 0, 0, 0, 0, 0, 0, 0]) State.reset)
      (fun t => [t.canvas.pixel 0 0, t.canvas.pixel 1 0, t.canvas.pixel 5 11, t.canvas.pixel 6 0]) =
      some [2, 1, 1, 0] ∧
    after (exec (.tile 1 2 0 0 #v[0x01, 0, 0, 0, 0, 0, 0, 0, 0, 0, 0, 0]) State.reset)
      (fun t => [t.canvas.pixel 0 0, t.canvas.pixel 5 0]) = some [1, 2] := by decide +kernel

/-- V37: the corner clamp. -/
theorem test_tile_clamps :
    after (exec (.tile 0 3 31 63 fullMask) State.reset) (fun t =>
      [t.canvas.pixel 294 204, t.canvas.pixel 299 215, t.canvas.pixel 293 204, t.canvas.pixel 294 203]) =
      some [3, 3, 0, 0] := by decide +kernel

/-- V34 at one cell of the tile and one beside it. -/
theorem test_tileXor_combines :
    after (exec (.tileXor 0 15 1 1 fullMask) (withCells [(3605, 6), (3606, 6)]))
      (fun t => [t.canvas.pixel 5 12, t.canvas.pixel 6 12, t.canvas.pixel 7 12]) = some [6, 9, 15] := by
  decide +kernel

/-- V42: no cell changes and `DIRTY` is set all the same; V16's `LAST_UPD`. -/
theorem test_tileXor_of_zeros_is_dirty :
    after (exec (.tileXor 0 0 5 5 fullMask) { withCells [(7, 4)] with pktPos := 7 })
      (fun t => (t.canvas, t.dirty, t.lastUpd, t.pktPos)) = some ([(7, 4)], true, 7, 8) := by decide +kernel

/-! ### Scrolls -/

/-- The two upper corners of V50's start, and one cell of the next row (C[7, 1] = 9). -/
def corners : State := withCells [(0, 1), (299, 2), (307, 9)]

/-- V50 and V51. -/
theorem test_scrollCopy_right_and_left :
    after (exec (.scrollCopy 1 0 0 0) corners) (fun t =>
      [t.canvas.pixel 6 0, t.canvas.pixel 5 0, t.canvas.pixel 0 0, t.canvas.pixel 299 0]) =
      some [1, 2, 0, 0] ∧
    after (exec (.scrollCopy 2 0 0 0) corners) (fun t => [t.canvas.pixel 294 0, t.canvas.pixel 293 0]) =
      some [1, 2] := by decide +kernel

/-- R173 by hand, as V53: up by 12 rows. -/
theorem test_scrollCopy_up :
    after (exec (.scrollCopy 0 0 2 0) (withCells [(3601, 3)])) (fun t =>
      [t.canvas.pixel 1 0, t.canvas.pixel 0 0]) = some [3, 0] := by decide +kernel

/-- V54 and R174 by hand: the vacated columns and rows take the fill colour. -/
theorem test_scrollPreset_fills :
    after (exec (.scrollPreset 7 1 0 0 0) corners) (fun t =>
      [t.canvas.pixel 6 0, t.canvas.pixel 0 0, t.canvas.pixel 5 0]) = some [1, 7, 7] ∧
    after (exec (.scrollPreset 7 0 0 1 0) corners) (fun t => [t.canvas.pixel 0 0, t.canvas.pixel 9 0]) =
      some [7, 7] := by decide +kernel

/-- V57. -/
theorem test_scrollCopy_clamps_and_holds :
    after (exec (.scrollCopy 3 7 3 15) corners) (fun t => (t.canvas, t.hoff, t.voff, t.dirty)) =
      some ([(0, 1), (299, 2), (307, 9)], 5, 11, true) := by decide +kernel

/-- V58. -/
theorem test_scrollPreset_without_shift :
    after (exec (.scrollPreset 9 0 4 0 6) corners) (fun t => (t.canvas, t.hoff, t.voff, t.dirty)) =
      some ([(0, 1), (299, 2), (307, 9)], 4, 6, true) := by decide +kernel

/-! ### The palette and the commands without effect -/

/-- V67. -/
theorem test_loadClutLo_redundant :
    after (exec (.loadClutLo black) { State.reset with prevMp := true })
      (fun t => (t.palette, t.prevMp, t.dirty, t.pktPos)) =
      some (Vector.replicate 16 ⟨0, 0, 0⟩, false, false, 1) := by decide +kernel

/-- V69's load: entry 2. -/
theorem test_loadClutLo_writes :
    after (exec (.loadClutLo (black.set 2 ⟨15, 15, 15⟩)) State.reset)
      (fun t => (t.palette[2], t.palette[10], t.dirty)) = some (⟨15, 15, 15⟩, ⟨0, 0, 0⟩, true) := by
  decide +kernel

/-- V68. -/
theorem test_loadClutHi_writes :
    after (exec (.loadClutHi (black.set 0 ⟨15, 0, 15⟩)) State.reset)
      (fun t => (t.palette[8], t.palette[0], t.dirty)) = some (⟨15, 0, 15⟩, ⟨0, 0, 0⟩, true) := by
  decide +kernel

/-- V70. -/
theorem test_defTransp_only_books :
    after (exec .defTransp { State.reset with prevMp := true, pktPos := 4 }) id =
      some { State.reset with pktPos := 5, reply := some (.sampleDue false) } := by decide +kernel

/-- V71. -/
theorem test_unrecognised_only_books :
    after (step { waiting [.pushPkt (pkt 0x09 0x3F 0 0)] with prevMp := true }) id =
      some { State.reset with pktPos := 1, reply := some (.sampleDue false) } := by decide +kernel

/-! ### Bookkeeping and the host interface -/

/-- V13 and V14. -/
theorem test_sample_cadence :
    after (step { waiting [.pushPkt (pkt 0 0 0 0)] with pktPos := 11 }) (fun t => (t.pktPos, t.reply)) =
      some (12, some (.sampleDue true)) ∧
    after (step { waiting [.pushPkt (pkt 0 0 0 0)] with pktPos := 12 }) (fun t => (t.pktPos, t.reply)) =
      some (13, some (.sampleDue false)) := by decide +kernel

/-- V18: the position wraps, and a sample is due at 0. -/
theorem test_position_wraps :
    after (step { waiting [.pushPkt (pkt 0 0 0 0)] with pktPos := 0xFFFFFFFF }) (fun t => (t.pktPos, t.reply)) =
      some (0, some (.sampleDue true)) := by decide +kernel

/-- V1 to V4. -/
theorem test_framer_counts :
    (framePackets []).length = 0 ∧ (framePackets (List.replicate 23 9)).length = 0 ∧
    (framePackets (List.replicate 24 9)).length = 1 ∧ (framePackets (List.replicate 50 9)).length = 2 := by
  decide +kernel

/-- V80 and V81: the window's corners. -/
theorem test_window_corners :
    (windowX State.reset 0, windowY State.reset 0) = (6, 12) ∧
    (windowX State.reset 287, windowY State.reset 191) = (293, 203) ∧
    (windowX { State.reset with hoff := 5 } 0, windowY { State.reset with voff := 11 } 0) = (11, 23) ∧
    (windowX { State.reset with hoff := 5 } 287, windowY { State.reset with voff := 11 } 191) = (298, 214) := by
  decide

/-- V69's read. -/
theorem test_window_read :
    after (step { waiting [.rdWin 0 0] with
      canvas := [(3606, 2)], palette := (Vector.replicate 16 ⟨0, 0, 0⟩).set 2 ⟨15, 15, 15⟩ }) State.reply =
      some (some (.window 2 ⟨255, 255, 255⟩)) := by decide +kernel

/-- V82. -/
theorem test_reads_out_of_range :
    refusal (step (waiting [.rdPix 300 0])) = some .pixelOutOfRange ∧
    refusal (step (waiting [.rdWin 288 0])) = some .windowOutOfRange := by decide +kernel

/-- 60_exceptions.md R236 by hand: RD_PAL, RD_STATUS and CLEAR_DIRTY. -/
theorem test_palette_status_clear :
    after (step { waiting [.rdPal 1] with palette := (Vector.replicate 16 ⟨0, 0, 0⟩).set 1 ⟨1, 2, 3⟩ })
      State.reply = some (some (.paletteEntry 0x123 ⟨17, 34, 51⟩)) ∧
    after (step { waiting [.rdStatus] with dirty := true, pktPos := 9, lastUpd := 6, hoff := 5, voff := 11 })
      State.reply = some (some (.status true 9 6 5 11)) ∧
    after (step { waiting [.clearDirty] with dirty := true, lastUpd := 6 }) (fun t => (t.dirty, t.lastUpd)) =
      some (false, 6) := by decide +kernel

/-- 70_reset_and_hazards.md R250 and R253 by hand. -/
theorem test_reset_and_restart :
    after (step { withCells [(5, 6)] with inbox := [.reset], hoff := 3, pktPos := 9, dirty := true }) id =
      some State.reset ∧
    after (step { withCells [(5, 6)] with inbox := [.restart], hoff := 3, pktPos := 9, dirty := true }) id =
      some { withCells [(5, 6)] with hoff := 3 } := by decide +kernel

/-! ### Witnesses: the hypotheses of each statement can be met together

A statement whose hypotheses are only the bounds of its variables, or none, is not listed. -/

/-- MEMPRESET 3, 0 as a packet. -/
def presetPacket : Packet := pkt 0x09 0x01 3 0

/-- MEMPRESET 4, 3 as a packet. -/
def repeatPacket : Packet := pkt 0x09 0x01 4 3

/-- A canvas with its first and its last cell listed. -/
def endCells : Memory := [(0, 1), (64799, 9)]

theorem witness_ParityBytesChangeNothing :
    let q : Packet := #v[9, 1, 0xFF, 0xFE, 3, 0, 0, 0, 0, 0, 0, 0, 0, 0, 0, 0, 0, 0, 0, 0, 1, 2, 3, 4]
    (∀ j (h : j < 24), j < 2 ∨ (4 ≤ j ∧ j < 20) → presetPacket[j] = q[j]) ∧ presetPacket ≠ q := by
  decide +kernel

theorem witness_MarkerPacketCodeIsLowSixBits :
    let q := pkt 0x09 0xC1 3 0
    isMarker presetPacket = true ∧ decode presetPacket = .ok (.memPreset 3 0) ∧
    (∀ j (h : j < 24), j ≠ 1 → q[j] = presetPacket[j]) ∧ q[1].toNat % 64 = presetPacket[1].toNat % 64 := by
  decide +kernel

theorem witness_TopBitsOfPacketBytesChangeNothing :
    let q := pkt 0xC9 0x41 0x83 0x40
    (∀ j (h : j < 24), j < 2 ∨ (4 ≤ j ∧ j < 20) → presetPacket[j].toNat % 64 = q[j].toNat % 64) ∧
    presetPacket ≠ q := by decide +kernel

theorem witness_HeaderWordSelectsTheCommand :
    (Opcode.tileXor, 38) ∈ codes ∧ (∃ i, decode (pkt 0x09 0x26 0 0) = .ok i ∧ i.opcode = .tileXor) ∧
    decode (pkt 0x08 0x01 0 0) = .error .nonMarker ∧
    decode (pkt 0x09 0x3F 0 0) = .error (.unrecognised 63) := by
  refine ⟨by decide, ⟨_, rfl, rfl⟩, by decide +kernel, by decide +kernel⟩

theorem witness_OperandsAreTheNamedBits :
    (∃ i, decode presetPacket = .ok i) ∧ (∃ i, decode (pkt 0x09 0x26 0xFF 0xFF) = .ok i) ∧
    (∃ i, decode (pkt 0x09 0x14 0xFF 0xFF) = .ok i) ∧ (∃ i, decode (pkt 0x09 0x1E 0xFF 0xFF) = .ok i) :=
  ⟨⟨_, rfl⟩, ⟨_, rfl⟩, ⟨_, rfl⟩, ⟨_, rfl⟩⟩

theorem witness_DefTranspDecodesNoField :
    let p := pkt 0xC9 0x5C 0 0
    let q := pkt 0xC9 0x5C 0xFF 0xFF
    decode p = .ok .defTransp ∧ q[0] = p[0] ∧ q[1] = p[1] ∧ p ≠ q := by decide +kernel

theorem witness_AssemblerAgreesWithTheEncoder :
    63 < 64 ∧ (List.replicate 24 255).length = 24 ∧ ∀ b ∈ List.replicate 24 255, b < 256 := by decide

/-- The first value beyond each field, and lists one too short and one too long. -/
theorem witness_AssemblerRefusesWhatDoesNotFit :
    16 ≤ 16 ∧ 32 ≤ 32 ∧ 64 ≤ 64 ∧ 4 ≤ 4 ∧ 8 ≤ 8 ∧
    ((List.replicate 11 0).length ≠ 12 ∧ (List.replicate 13 0).length ≠ 12 ∧ ∃ m ∈ [64], 64 ≤ m) ∧
    ((List.replicate 7 (0, 0, 0)).length ≠ 8 ∧ ∃ c ∈ [(0, 0, 16)], 16 ≤ c.1 ∨ 16 ≤ c.2.1 ∨ 16 ≤ c.2.2) ∧
    ((List.replicate 23 0).length ≠ 24 ∧ ∃ b ∈ [256], 256 ≤ b) := by decide

theorem witness_StepRunsTheDecodedCommand :
    (waiting [.pushPkt presetPacket]).inbox = .pushPkt presetPacket :: [] ∧
    decode presetPacket = .ok (.memPreset 3 0) := by decide +kernel

theorem witness_NonMarkerPacketOnlyCounts :
    (waiting [.pushPkt (pkt 8 1 5 0)]).inbox = .pushPkt (pkt 8 1 5 0) :: [] ∧ marked (pkt 8 1 5 0) = false := by
  decide +kernel

theorem witness_UnrecognisedCodeOnlyClearsPrevMp :
    let p := pkt 9 0 0 0
    (waiting [.pushPkt p]).inbox = .pushPkt p :: [] ∧ marked p = true ∧
    ∀ op k, (op, k) ∈ codes → p[1].toNat % 64 ≠ k :=
  ⟨rfl, by decide, fun op k h => (by decide : ∀ c ∈ codes, (pkt 9 0 0 0)[1].toNat % 64 ≠ c.2) (op, k) h⟩

/-- Both kinds of packet the statement speaks of, and fields beyond their range. -/
theorem witness_EveryPacketHasADefinedEffect :
    marked (pkt 8 1 5 0) = false ∧
    (marked (pkt 9 63 0 0) = true ∧ ∀ c ∈ codes, (pkt 9 63 0 0)[1].toNat % 64 ≠ c.2) ∧
    17 < (18 : BitVec 5).toNat ∧ 49 < (50 : BitVec 6).toNat ∧ 5 < (6 : BitVec 3).toNat ∧
    11 < (12 : BitVec 4).toNat := by decide +kernel

/-- A suppressed and an applied preset. -/
theorem witness_MemPresetFillsUnlessItRepeats :
    let s := { State.reset with prevMp := true }
    (s.prevMp = true ∧ (1 : BitVec 4) ≠ 0) ∧ ¬ (s.prevMp = true ∧ (0 : BitVec 4) ≠ 0) ∧
    ¬ (State.reset.prevMp = true ∧ (1 : BitVec 4) ≠ 0) := by decide

/-- For every statement whose hypothesis is a canonical canvas: both ends of the canvas listed. -/
theorem witness_canonical_canvas : endCells.wf = true ∧ (withCells endCells).canvas.wf = true := by decide

/-- Pixels inside a tile's bounds and outside them, at the clamped corner. -/
theorem witness_TileReplacesItsPixels :
    let left := min (63 : BitVec 6).toNat 49 * 6
    let top := min (31 : BitVec 5).toNat 17 * 12
    (withCells endCells).canvas.wf = true ∧ ¬ (left ≤ 293 ∧ 293 < left + 6 ∧ top ≤ 215 ∧ 215 < top + 12) ∧
    ¬ (left ≤ 299 ∧ 299 < left + 6 ∧ top ≤ 203 ∧ 203 < top + 12) := by decide

/-- A boundary value for each clause of `ShiftOperatorsMoveEveryCell`; the first two clauses hold at both
ends of a row and of a column. -/
theorem witness_ShiftOperatorsMoveEveryCell :
    ((299 < 300 ∧ 215 < 216) ∧ (6 : Int) ≠ 0 ∧ (-12 : Int) ≠ 0) ∧ 5 < 6 ∧ 294 ≤ 294 ∧ 11 < 12 ∧ 204 ≤ 204 := by
  decide

theorem witness_OppositeCopyScrollsRestoreTheCanvas :
    (withCells endCells).canvas.wf = true ∧ hShift 2 = -hShift 1 ∧ vShift 1 = -vShift 2 ∧
    hShift 3 = -hShift 0 := by decide

theorem witness_PaletteLoadRecoloursTheWindow :
    ∃ t, exec (.loadClutHi black) State.reset = .next t ∧ 287 < 288 ∧ 191 < 192 := ⟨_, rfl, by decide⟩

/-- A step that writes the canvas, for `OnlyTheNamedWritersWrite`. -/
theorem witness_OnlyTheNamedWritersWrite_canvas :
    ∃ t, step (withCells [(0, 1)] |>.withInbox [.reset]) = .next t ∧ t.canvas ≠ [(0, 1)] :=
  ⟨_, rfl, by decide⟩

/-- A step that writes palette entries of each half. -/
theorem witness_OnlyTheNamedWritersWrite_palette :
    (after (step (waiting [.pushPkt (pkt 9 30 0x3F 0)])) fun t => decide (t.palette[0] = State.reset.palette[0]))
      = some false ∧
    (after (step (waiting [.pushPkt (pkt 9 31 0x3F 0)])) fun t => decide (t.palette[8] = State.reset.palette[8]))
      = some false := by decide +kernel

/-- Steps that write the offsets, the counters and `PREV_MP`, one that sets `DIRTY` and one that clears
it. -/
theorem witness_OnlyTheNamedWritersWrite_registers :
    (after (step (waiting [.pushPkt (pkt 9 24 0 5)])) fun t => (t.hoff, t.pktPos, t.dirty)) = some (5, 1, true) ∧
    (after (step (waiting [.pushPkt presetPacket])) State.prevMp) = some true ∧
    (after (step { waiting [.clearDirty] with dirty := true }) State.dirty) = some false := by decide +kernel

theorem witness_PacketsKeepCanvasContentsInTheCanvas :
    ∃ t, (waiting [.pushPkt presetPacket]).inbox = .pushPkt presetPacket :: [] ∧
      step (waiting [.pushPkt presetPacket]) = .next t := ⟨_, rfl, rfl⟩

/-- Two presets with one packet between them: a non-marker packet for the first clause, BORDERPRESET for the
third; a second preset with `repeat = 0` for the second clause. -/
theorem witness_SecondMemPresetAppliesOnlyIfSeparatedOrRepeatZero :
    decode presetPacket = .ok (.memPreset 3 0) ∧ decode repeatPacket = .ok (.memPreset 4 3) ∧
    (∀ r ∈ [pkt 0 0 0 0], isMarker r = false) ∧ (3 : BitVec 4) ≠ 0 ∧
    (∃ r ∈ [pkt 9 2 8 0], isMarker r = true) ∧
    (∀ r ∈ [pkt 9 2 8 0], ∀ c k, decode r ≠ .ok (.memPreset c k)) ∧
    (waiting ((presetPacket :: [pkt 9 2 8 0] ++ [repeatPacket]).map .pushPkt)).inbox =
      (presetPacket :: [pkt 9 2 8 0] ++ [repeatPacket]).map .pushPkt :=
  ⟨by decide +kernel, by decide +kernel, List.forall_mem_singleton.2 (by decide), by decide,
    ⟨pkt 9 2 8 0, List.mem_singleton_self _, by decide⟩,
    List.forall_mem_singleton.2 (fun _ _ h => nomatch
      (show decode (pkt 9 2 8 0) = .ok (.borderPreset 8) from rfl).symm.trans h),
    rfl⟩

/-- For both statements over a list of waiting packets. -/
theorem witness_SampleIsDueEveryTwelfthPacket :
    let ps := List.replicate 12 (pkt 0 0 0 0)
    (waiting (ps.map .pushPkt ++ [.rdStatus])).inbox = ps.map .pushPkt ++ [.rdStatus] ∧
    (waiting (ps.map .pushPkt ++ [.rdStatus])).pktPos = 0 ∧ 12 ≤ ps.length := by decide +kernel

theorem witness_PrevMpRemembersTheLastMarkerPacket :
    let ps := [presetPacket, pkt 0 0 0 0]
    (waiting (ps.map .pushPkt ++ [.rdStatus])).inbox = ps.map .pushPkt ++ [.rdStatus] ∧
    (ps.filter marked).getLast? = some presetPacket := by decide +kernel

theorem witness_FramerSlicesTheBuffer : (1 : Nat) < (framePackets (List.replicate 50 9)).length ∧ 23 < 24 := by
  decide +kernel

theorem witness_TrailingFragmentIsDropped :
    (List.replicate 24 (9 : Byte)).length % 24 = 0 ∧ (List.replicate 23 (9 : Byte)).length < 24 := by decide

theorem witness_EveryBufferRunsToItsEnd :
    State.reset.inbox = [] ∧ Safety.Inv State.reset ∧ (List.replicate 48 (9 : Byte)).length % 24 = 0 :=
  ⟨rfl, ⟨by decide, by decide, by decide⟩, by decide⟩

/-- A legal state at the edge of the offsets' ranges, with a canvas, that steps. -/
theorem witness_EveryStepKeepsTheStateLegal :
    let s := { withCells endCells with hoff := 5, voff := 11, inbox := [.pushPkt presetPacket] }
    ∃ t, Safety.Inv s ∧ step s = .next t := ⟨_, ⟨by decide, by decide, by decide⟩, rfl⟩

/-- A safe state whose waiting reads are at the edges of their ranges. -/
theorem witness_LegalHostNeverStopsTheBlock :
    Safety.Safe { withCells endCells with
      hoff := 5, voff := 11, inbox := [.rdPix 299 215, .rdWin 287 191, .pushPkt presetPacket, .reset] } :=
  ⟨⟨by decide, by decide, by decide⟩, by decide⟩

theorem witness_ReadPixelReturnsTheCell :
    (waiting [.rdPix 299 215]).inbox = .rdPix 299 215 :: [] ∧ (299 < 300 ∧ 215 < 216) ∧
    ¬ (300 < 300 ∧ 215 < 216) ∧ ¬ (299 < 300 ∧ 216 < 216) := by decide

theorem witness_ReadWindowReturnsTheOffsetCell :
    let s := { withCells endCells with hoff := 5, voff := 11, inbox := [.rdWin 287 191] }
    Safety.Inv s ∧ s.inbox = .rdWin 287 191 :: [] ∧ (287 < 288 ∧ 191 < 192) ∧ ¬ (288 < 288 ∧ 191 < 192) ∧
    ¬ (287 < 288 ∧ 192 < 192) := ⟨⟨by decide, by decide, by decide⟩, by decide⟩

theorem witness_ChannelsReadTimesSeventeen :
    ∃ t rgb, (waiting [.rdPal 15]).inbox = .rdPal 15 :: [] ∧ readWindow 287 191 State.reset = .next t ∧
      t.reply = some (.window 0 rgb) := ⟨_, _, rfl, rfl, rfl⟩

theorem witness_WindowShowsTheColourOfAnAppliedPreset :
    let s := { withCells endCells with hoff := 5, voff := 11, prevMp := true }
    ∃ t, Safety.Inv s ∧ ¬ (s.prevMp = true ∧ (0 : BitVec 4) ≠ 0) ∧ exec (.memPreset 3 0) s = .next t ∧
      287 < 288 ∧ 191 < 192 := ⟨_, ⟨by decide, by decide, by decide⟩, by decide, rfl, by decide⟩

/-- The waiting operations of `StatusClearAndIdleSteps`, `ResetClearsEverything` and
`RestartKeepsThePicture`. -/
theorem witness_waiting_operations :
    (waiting [.rdStatus]).inbox = .rdStatus :: [] ∧ (waiting [.clearDirty]).inbox = .clearDirty :: [] ∧
    State.reset.inbox = [] ∧ (waiting [.reset, .rdStatus]).inbox = .reset :: [.rdStatus] ∧
    (waiting [.restart]).inbox = .restart :: [] := by decide

theorem witness_ResetWinsOverAPacket :
    arbitrate (some true) (some presetPacket) = some .reset ∧
    arbitrate (some false) (some presetPacket) = some .restart := by decide +kernel

end Sys2Proof.Tests
end

section
/-!
SUPPORT. The proofs about packet decoding (30_encoding.md): which bits of a packet `decode` reads, and that
the outcome of a packet's step depends on nothing but what the packet decodes to.
-/

namespace Sys2Proof

/-! ### The opcode map -/

theorem codeOfOpcode_of_mem : ∀ row ∈ opcodeMap, codeOfOpcode row.op = row.code := by decide

/-- The opcode map has one code for each command (30_encoding.md R75). -/
theorem codeOfOpcode_of_opcodeOfCode {code : BitVec 6} {op : Opcode} (h : opcodeOfCode code = some op) :
    codeOfOpcode op = code := by
  obtain ⟨row, hrow, rfl⟩ := Option.map_eq_some_iff.1 h
  have hcode : row.code = code := by simpa using List.find?_some hrow
  rw [codeOfOpcode_of_mem row (List.mem_of_find?_eq_some hrow), hcode]

@[simp] theorem opcode_decodeOperands (op : Opcode) (d : Fin 16 → Byte) :
    (decodeOperands op d).opcode = op := by
  cases op <;> rfl

/-! ### What `decode` reads -/

theorem packetCode_toNat (p : Packet) : (packetCode p).toNat = p[1].toNat % 64 := by
  simp [packetCode, bits]

theorem packetCode_congr {p q : Packet} (h : q[1].toNat % 64 = p[1].toNat % 64) :
    packetCode q = packetCode p :=
  BitVec.eq_of_toNat_eq (by rw [packetCode_toNat, packetCode_toNat, h])

theorem isMarker_congr {p q : Packet} (h : q[0] = p[0]) : isMarker q = isMarker p := by
  simp only [isMarker, h]

theorem dataByte_congr {p q : Packet} (h : ∀ j (hj : j < 24), 4 ≤ j → j < 20 → q[j] = p[j]) :
    dataByte q = dataByte p :=
  funext fun i => h (4 + i.val) (by omega) (by omega) (by omega)

/-- `decode` reads the marker, the code and the data bytes, and nothing else. -/
theorem decode_congr {p q : Packet} (hmarker : isMarker q = isMarker p)
    (hcode : packetCode q = packetCode p) (hdata : dataByte q = dataByte p) : decode q = decode p := by
  simp only [decode, hmarker, hcode, hdata]

/-- A packet is the command `i` when it has the marker and `i`'s code, and its data bytes give `i`'s
operands (30_encoding.md R72, R73, R75). -/
theorem decode_eq_ok_iff {p : Packet} {i : Instr} :
    decode p = .ok i ↔ isMarker p = true ∧ opcodeOfCode (packetCode p) = some i.opcode ∧
      decodeOperands i.opcode (dataByte p) = i := by
  unfold decode
  split
  · next hmarker =>
    split
    · next op hop =>
      constructor
      · intro h
        obtain rfl : decodeOperands op (dataByte p) = i := Except.ok.inj h
        simp [hmarker, hop]
      · rintro ⟨-, hop', hi⟩
        obtain rfl : op = i.opcode := Option.some.inj (hop.symm.trans hop')
        rw [hi]
    · next hnone => simp [hnone]
  · next hmarker => simp [hmarker]

/-- DEFTRANSP is decided by the marker and the code alone (30_encoding.md R86). -/
theorem decode_eq_defTransp_iff {p : Packet} :
    decode p = .ok .defTransp ↔
      isMarker p = true ∧ opcodeOfCode (packetCode p) = some .defTransp := by
  rw [decode_eq_ok_iff]
  simp [Instr.opcode, decodeOperands]

/-- The code of the command a packet decodes to is the packet's own. -/
theorem codeOfOpcode_of_decode {p : Packet} {i : Instr} (h : decode p = .ok i) :
    codeOfOpcode i.opcode = packetCode p := by
  obtain ⟨-, hop, -⟩ := decode_eq_ok_iff.1 h
  exact codeOfOpcode_of_opcodeOfCode hop

end Sys2Proof

namespace Sys2Proof.Machine

/-! ### The step of a packet -/

theorem step_pushPkt (s : State) (p : Packet) (ops : List HostOp) :
    step (s.withInbox (.pushPkt p :: ops)) = applyPacket p (s.withInbox ops) :=
  step_cons (s := s.withInbox (.pushPkt p :: ops)) rfl

/-- Packets that decode alike have the same outcome from every state. -/
theorem step_pushPkt_congr {p q : Packet} (h : decode q = decode p) (s : State) (ops : List HostOp) :
    step (s.withInbox (.pushPkt q :: ops)) = step (s.withInbox (.pushPkt p :: ops)) := by
  rw [step_pushPkt, step_pushPkt, applyPacket, applyPacket, h]

/-! ### The obligations -/

/-- Settles O3: `decode` reads bytes 0, 1 and 4 to 19 only. -/
theorem parityBytesChangeNothing : Obligations.ParityBytesChangeNothing := by
  intro s p q ops hpq
  have hdecode : decode p = decode q :=
    decode_congr (isMarker_congr (hpq 0 (by omega) (by omega)))
      (packetCode_congr (by rw [hpq 1 (by omega) (by omega)]))
      (dataByte_congr fun j hj h4 h20 => hpq j hj (.inr ⟨h4, h20⟩))
  exact step_pushPkt_congr hdecode s ops

/-- Settles O4: of byte 1 `decode` reads the code only, and the code is the byte modulo 64. -/
theorem markerPacketCodeIsLowSixBits : Obligations.MarkerPacketCodeIsLowSixBits := by
  intro p _
  refine ⟨packetCode_toNat p, fun i hi => ?_, fun q hbytes hlow => ?_⟩
  · rw [codeOfOpcode_of_decode hi, packetCode_toNat]
  · exact decode_congr (isMarker_congr (hbytes 0 (by omega) (by omega))) (packetCode_congr hlow)
      (dataByte_congr fun j hj h4 _ => hbytes j hj (by omega))

/-- Settles O8: bytes 0 and 1 decide whether a packet is DEFTRANSP, which has no operand to differ in. -/
theorem defTranspDecodesNoField : Obligations.DefTranspDecodesNoField := by
  intro p q hp h0 h1
  have hcode : packetCode q = packetCode p := packetCode_congr (by rw [h1])
  have hq : decode q = .ok .defTransp := by
    rwa [decode_eq_defTransp_iff, isMarker_congr h0, hcode, ← decode_eq_defTransp_iff]
  exact ⟨hq, step_pushPkt_congr (hq.trans hp.symm)⟩

end Sys2Proof.Machine
end

section
/-!
The packet framer (40_packet_reader.md R100 to R102): where the bytes of its packets stand in the buffer, and
how it frames a buffer of whole packets with more bytes after it.
-/

namespace Sys2Proof.Machine

/-! ### The bytes of the packets -/

theorem getElem?_eq_packetFrom (b : List Byte) (j : Nat) (hj : j < 24) (hb : j < b.length) :
    b[j]? = some (packetFrom b)[j] := by
  simp [packetFrom, hb]

/-- Byte `j` of packet `k` is byte `24k + j` of the buffer, for as many packets as the buffer holds. -/
theorem getElem?_eq_packetsFrom {n : Nat} {b : List Byte} (hn : 24 * n ≤ b.length)
    {k : Nat} (hk : k < (packetsFrom n b).length) {j : Nat} (hj : j < 24) :
    b[24 * k + j]? = some ((packetsFrom n b)[k][j]) := by
  induction n generalizing b k with
  | zero => exact absurd hk (Nat.not_lt_zero k)
  | succ n ih =>
    cases k with
    | zero => simpa [packetsFrom_succ] using getElem?_eq_packetFrom b j hj (by omega)
    | succ k =>
      have hrest : 24 * n ≤ (b.drop 24).length := by rw [List.length_drop]; omega
      have hk' : k < (packetsFrom n (b.drop 24)).length := Nat.lt_of_succ_lt_succ hk
      calc b[24 * (k + 1) + j]?
        _ = (b.drop 24)[24 * k + j]? := by rw [List.getElem?_drop]; congr 1; omega
        _ = some ((packetsFrom n (b.drop 24))[k][j]) := ih hrest hk'

/-! ### Framing one buffer after another -/

theorem packetFrom_append {b : List Byte} (hb : 24 ≤ b.length) (c : List Byte) :
    packetFrom (b ++ c) = packetFrom b := by
  refine Vector.ext fun j hj => Option.some.inj ?_
  rw [← getElem?_eq_packetFrom _ j hj (by rw [List.length_append]; omega),
    ← getElem?_eq_packetFrom _ j hj (by omega), List.getElem?_append_left (by omega)]

theorem packetsFrom_append {k : Nat} {b : List Byte} (hb : b.length = 24 * k) (m : Nat) (c : List Byte) :
    packetsFrom (k + m) (b ++ c) = packetsFrom k b ++ packetsFrom m c := by
  induction k generalizing b with
  | zero =>
    obtain rfl : b = [] := List.eq_nil_of_length_eq_zero hb
    rw [Nat.zero_add]; rfl
  | succ k ih =>
    have hrest : (b.drop 24).length = 24 * k := by rw [List.length_drop]; omega
    rw [Nat.succ_add, packetsFrom_succ, packetsFrom_succ, packetFrom_append (by omega),
      List.drop_append_of_le_length (by omega), ih hrest, List.cons_append]

/-- After whole packets the framer begins afresh: it frames what follows as a buffer of its own. -/
theorem framePackets_append {b : List Byte} (hb : b.length % 24 = 0) (c : List Byte) :
    framePackets (b ++ c) = framePackets b ++ framePackets c := by
  have hlength : (b ++ c).length / 24 = b.length / 24 + c.length / 24 := by
    rw [List.length_append]; omega
  rw [framePackets_eq, hlength, packetsFrom_append (by omega), ← framePackets_eq, ← framePackets_eq]

theorem framePackets_of_length_lt {b : List Byte} (hb : b.length < 24) : framePackets b = [] := by
  rw [framePackets_eq, Nat.div_eq_of_lt hb]; rfl

/-! ### Delivery -/

/-- Delivery depends on the framed packets only. -/
theorem deliver_congr {b c : List Byte} (h : framePackets b = framePackets c) (s : State) :
    s.deliver b = s.deliver c := by
  rw [State.deliver, State.deliver, h]

theorem deliver_of_framePackets_nil {b : List Byte} (h : framePackets b = []) (s : State) :
    s.deliver b = s := by
  rw [State.deliver, h, List.map_nil, State.issue, List.append_nil]; rfl

/-! ### The obligations -/

/-- Settles O34: the framer walks the buffer in strides of 24 bytes, `floor(L / 24)` times. -/
theorem framerSlicesTheBuffer : Obligations.FramerSlicesTheBuffer := by
  intro b
  exact ⟨length_packetsFrom _ b, fun k hk j hj => getElem?_eq_packetsFrom (Nat.mul_div_le _ _) hk hj⟩

/-- Settles O35: a fragment after whole packets is framed as a buffer of its own, which has no packet. -/
theorem trailingFragmentIsDropped : Obligations.TrailingFragmentIsDropped := by
  intro b fragment hb hfragment
  have hnone : framePackets fragment = [] := framePackets_of_length_lt hfragment
  have hdropped : framePackets (b ++ fragment) = framePackets b := by
    rw [framePackets_append hb, hnone, List.append_nil]
  exact ⟨hdropped, deliver_congr hdropped, hnone, deliver_of_framePackets_nil hnone⟩

end Sys2Proof.Machine
end

section
/-!
The bands of the shift operators (43_scroll.md R171 to R174): the cells a copy shift brings back at the
opposite edge, and the cells a preset shift vacates.
-/

namespace Sys2Proof.Machine

namespace Memory

/-! ### Where a copy shift takes a cell -/

/-- A copy shift by `dx` takes column `xs` to column `(xs + dx) mod 300` (R171, read forwards). -/
theorem pixel_hShiftCopy_of_moved (m : Memory) {dx : Int} {xs x y : Nat} (hxs : xs < 300) (hy : y < 216)
    (hmove : ((xs : Int) + dx) % 300 = x) : (m.hShiftCopy dx).pixel x y = m.pixel xs y := by
  have hsource : (((x : Int) - dx) % 300).toNat = xs := by omega
  rw [pixel_hShiftCopy m dx (by omega) hy, hsource]

/-- A copy shift by `dy` takes row `ys` to row `(ys + dy) mod 216` (R173, read forwards). -/
theorem pixel_vShiftCopy_of_moved (m : Memory) {dy : Int} {x ys y : Nat} (hx : x < 300) (hys : ys < 216)
    (hmove : ((ys : Int) + dy) % 216 = y) : (m.vShiftCopy dy).pixel x y = m.pixel x ys := by
  have hsource : (((y : Int) - dy) % 216).toNat = ys := by omega
  rw [pixel_vShiftCopy m dy hx (by omega), hsource]

/-! ### What a preset shift vacates -/

theorem pixel_hShiftPreset_of_vacated (m : Memory) {dx : Int} (color : Cell) {x y : Nat} (hx : x < 300)
    (hy : y < 216) (hvacated : (x : Int) < dx ∨ 300 + dx ≤ x) :
    (m.hShiftPreset dx color).pixel x y = color := by
  rw [pixel_hShiftPreset m dx color hx hy, if_neg (by omega)]

theorem pixel_vShiftPreset_of_vacated (m : Memory) {dy : Int} (color : Cell) {x y : Nat} (hx : x < 300)
    (hy : y < 216) (hvacated : (y : Int) < dy ∨ 216 + dy ≤ y) :
    (m.vShiftPreset dy color).pixel x y = color := by
  rw [pixel_vShiftPreset m dy color hx hy, if_neg (by omega)]

end Memory

/-! ### The obligation -/

/-- Settles O19: the operators' pixel laws, and for each band the shift that wraps into it or vacates it. -/
theorem shiftOperatorsMoveEveryCell : Obligations.ShiftOperatorsMoveEveryCell := by
  intro m x y hx hy
  refine ⟨fun dx _ => ⟨m.pixel_hShiftCopy dx hx hy, fun color => m.pixel_hShiftPreset dx color hx hy⟩,
    fun dy _ => ⟨m.pixel_vShiftCopy dy hx hy, fun color => m.pixel_vShiftPreset dy color hx hy⟩,
    fun hleft => ⟨?_, fun color => ?_⟩, fun hright => ⟨?_, fun color => ?_⟩,
    fun htop => ⟨?_, fun color => ?_⟩, fun hbottom => ⟨?_, fun color => ?_⟩⟩
  · exact m.pixel_hShiftCopy_of_moved (by omega) hy (by omega)
  · exact m.pixel_hShiftPreset_of_vacated color hx hy (.inl (by omega))
  · exact m.pixel_hShiftCopy_of_moved (by omega) hy (by omega)
  · exact m.pixel_hShiftPreset_of_vacated color hx hy (.inr (by omega))
  · exact m.pixel_vShiftCopy_of_moved hx (by omega) (by omega)
  · exact m.pixel_vShiftPreset_of_vacated color hx hy (.inl (by omega))
  · exact m.pixel_vShiftCopy_of_moved hx (by omega) (by omega)
  · exact m.pixel_vShiftPreset_of_vacated color hx hy (.inr (by omega))

end Sys2Proof.Machine
end
section
/-!
The decoder and the encoder (30_encoding.md): the fields of a packet as numbers, the three outcomes of `decode`
by the packet's first two bytes, and the encoder as the decoder's inverse.
-/

namespace Sys2Proof

/-! ### Fields as numbers -/

@[simp] theorem toNat_bits (b : Byte) (lo w : Nat) : (bits b lo w).toNat = b.toNat / 2 ^ lo % 2 ^ w := by
  rw [bits, BitVec.extractLsb'_toNat, Nat.shiftRight_eq_div_pow]

theorem toNat_append_eq_add {m n : Nat} (x : BitVec m) (y : BitVec n) :
    (x ++ y).toNat = x.toNat * 2 ^ n + y.toNat := by
  rw [BitVec.toNat_append, ← Nat.shiftLeft_add_eq_or_of_lt y.isLt, Nat.shiftLeft_eq]

/-- A field inside bits 5:0 does not see bits 7:6 (30_encoding.md R74). -/
theorem bits_congr {b c : Byte} (h : b.toNat % 64 = c.toNat % 64) {lo w : Nat} (hw : lo + w ≤ 6) :
    bits b lo w = bits c lo w := by
  have field_of_low (n : Nat) : n / 2 ^ lo % 2 ^ w = n % 64 / 2 ^ lo % 2 ^ w := by
    rw [show 64 = 2 ^ lo * 2 ^ (6 - lo) by rw [← Nat.pow_add, Nat.add_sub_cancel' (by omega)],
      Nat.mod_mul_right_div_self, Nat.mod_mod_of_dvd _ (Nat.pow_dvd_pow 2 (by omega))]
  refine BitVec.eq_of_toNat_eq ?_
  rw [toNat_bits, toNat_bits, field_of_low, h, ← field_of_low]

theorem bits_setWidth {w : Nat} (x : BitVec w) (hw : w ≤ 8) : bits (x.setWidth 8) 0 w = x := by
  have hx : x.toNat < 2 ^ 8 := Nat.lt_of_lt_of_le x.isLt (Nat.pow_le_pow_right (by omega) hw)
  refine BitVec.eq_of_toNat_eq ?_
  rw [toNat_bits, BitVec.toNat_setWidth, Nat.mod_eq_of_lt hx, Nat.pow_zero, Nat.div_one, Nat.mod_eq_of_lt x.isLt]

theorem getElem_maskField (d : Fin 16 → Byte) (r : Fin 12) :
    (maskField d)[r.val] = bits (d ⟨4 + r.val, by omega⟩) 0 6 := by
  simp [maskField]

theorem getElem_colorsField (d : Fin 16 → Byte) (k : Fin 8) :
    (colorsField d)[k.val] = unpackColor (d ⟨2 * k.val, by omega⟩) (d ⟨2 * k.val + 1, by omega⟩) := by
  simp [colorsField]

/-- The channels of a colour's two bytes (44_palette.md R200). -/
theorem unpackColor_toNat (hi lo : Byte) :
    (unpackColor hi lo).r.toNat = hi.toNat / 4 % 16 ∧
    (unpackColor hi lo).g.toNat = hi.toNat % 4 * 4 + lo.toNat / 16 % 4 ∧
    (unpackColor hi lo).b.toNat = lo.toNat % 16 := by
  exact ⟨by simp [unpackColor], (toNat_append_eq_add _ _).trans (by simp), by simp [unpackColor]⟩

/-! ### The operands see bits 5:0 of the data bytes only -/

theorem unpackColor_congr {hi lo hi' lo' : Byte} (hhi : hi.toNat % 64 = hi'.toNat % 64)
    (hlo : lo.toNat % 64 = lo'.toNat % 64) : unpackColor hi lo = unpackColor hi' lo' := by
  rw [unpackColor, unpackColor, bits_congr hhi (by omega), bits_congr hhi (by omega), bits_congr hlo (by omega),
    bits_congr hlo (by omega)]

theorem decodeOperands_congr {d e : Fin 16 → Byte} (h : ∀ i, (d i).toNat % 64 = (e i).toNat % 64) (op : Opcode) :
    decodeOperands op d = decodeOperands op e := by
  have hfield (i : Fin 16) {lo w : Nat} (hw : lo + w ≤ 6) : bits (d i) lo w = bits (e i) lo w := bits_congr (h i) hw
  have hmask : maskField d = maskField e := by
    simp only [maskField, hfield _ (show 0 + 6 ≤ 6 by omega)]
  have hcolors : colorsField d = colorsField e := by
    simp only [colorsField, unpackColor_congr (h _) (h _)]
  cases op with
  | loadClutLo | loadClutHi => simp only [decodeOperands, hcolors]
  | tile | tileXor => simp [decodeOperands, hmask, hfield]
  | _ => simp [decodeOperands, hfield]

/-! ### The opcode map by its numbers -/

theorem opcodeOfCode_eq_some_iff {code : BitVec 6} {op : Opcode} :
    opcodeOfCode code = some op ↔ (op, code.toNat) ∈ Claims.codes := by
  cases op <;> revert code <;> decide

theorem opcodeOfCode_eq_none_iff {code : BitVec 6} :
    opcodeOfCode code = none ↔ ∀ op k, (op, k) ∈ Claims.codes → code.toNat ≠ k := by
  rw [Option.eq_none_iff_forall_ne_some]
  simp only [ne_eq, opcodeOfCode_eq_some_iff]
  exact ⟨fun h op k hk he => h op (he ▸ hk), fun h op hk => h op _ hk rfl⟩

theorem opcodeOfCode_codeOfOpcode (op : Opcode) : opcodeOfCode (codeOfOpcode op) = some op := by
  cases op <;> rfl

/-- The codes of the map fit the six bits of the instruction byte, and each selects one command. -/
theorem opcodeOfCode_of_mem_codes {op : Opcode} {k : Nat} (h : (op, k) ∈ Claims.codes) (code : BitVec 6) :
    opcodeOfCode code = some op ↔ code = BitVec.ofNat 6 k := by
  have hcode : ∀ c ∈ Claims.codes, codeOfOpcode c.1 = BitVec.ofNat 6 c.2 := by decide
  rw [← hcode (op, k) h]
  exact ⟨fun hop => (codeOfOpcode_of_opcodeOfCode hop).symm, fun hc => hc ▸ opcodeOfCode_codeOfOpcode op⟩

/-! ### The three outcomes of `decode` -/

theorem isMarker_eq_marked (p : Packet) : isMarker p = Claims.marked p := by
  rw [isMarker, Claims.marked, Bool.eq_iff_iff, beq_iff_eq, beq_iff_eq, ← BitVec.toNat_inj]
  simp [marker]

theorem decode_eq_nonMarker_iff {p : Packet} : decode p = .error .nonMarker ↔ isMarker p = false := by
  unfold decode
  split
  · split <;> simp [*]
  · simp [*]

theorem decode_eq_unrecognised_iff {p : Packet} {c : BitVec 6} :
    decode p = .error (.unrecognised c) ↔
      isMarker p = true ∧ packetCode p = c ∧ opcodeOfCode c = none := by
  unfold decode
  split
  · next hmarker =>
    split
    · next op hop =>
      simp only [reduceCtorEq, hmarker, true_and, false_iff]
      rintro ⟨rfl, hnone⟩
      exact nomatch hop.symm.trans hnone
    · next hnone =>
      simp only [Except.error.injEq, DecodeReject.unrecognised.injEq, hmarker, true_and]
      exact ⟨fun hc => ⟨hc, hc ▸ hnone⟩, fun h => h.1⟩
  · next hmarker => simp [hmarker]

theorem exists_decode_eq_ok_iff {p : Packet} {op : Opcode} :
    (∃ i, decode p = .ok i ∧ i.opcode = op) ↔ isMarker p = true ∧ opcodeOfCode (packetCode p) = some op := by
  constructor
  · rintro ⟨i, hi, rfl⟩
    obtain ⟨hmarker, hop, -⟩ := decode_eq_ok_iff.1 hi
    exact ⟨hmarker, hop⟩
  · rintro ⟨hmarker, hop⟩
    exact ⟨decodeOperands op (dataByte p), by simp [decode_eq_ok_iff, hmarker, hop], opcode_decodeOperands op _⟩

/-- A packet is a MemoryPreset exactly when it has the marker and code 1. -/
theorem exists_decode_eq_memPreset_iff {p : Packet} :
    (∃ color rep, decode p = .ok (.memPreset color rep)) ↔
      Claims.marked p = true ∧ p[1].toNat % 64 = 1 := by
  have hcode : (Opcode.memPreset, 1) ∈ Claims.codes := by decide
  rw [← isMarker_eq_marked, ← packetCode_toNat,
    show (packetCode p).toNat = 1 ↔ packetCode p = BitVec.ofNat 6 1 by rw [← BitVec.toNat_inj]; rfl,
    ← opcodeOfCode_of_mem_codes hcode, ← exists_decode_eq_ok_iff]
  constructor
  · rintro ⟨color, rep, h⟩
    exact ⟨_, h, rfl⟩
  · rintro ⟨i, hi, hop⟩
    cases i with
    | memPreset color rep => exact ⟨color, rep, hi⟩
    | _ => exact nomatch hop

/-! ### The header word (30_encoding.md R77) -/

theorem and_low_six (b : Byte) : b &&& 0x3F = (bits b 0 6).setWidth 8 := by
  revert b; decide

theorem headerWord_eq_iff {a b : Byte} {c : BitVec 6} :
    (a ++ b : BitVec 16) &&& 0x3F3F = 0x0900 ||| c.setWidth 16 ↔ bits a 0 6 = marker ∧ bits b 0 6 = c := by
  have hmask : (a ++ b : BitVec 16) &&& 0x3F3F = (bits a 0 6).setWidth 8 ++ (bits b 0 6).setWidth 8 := by
    rw [← and_low_six, ← and_low_six, ← BitVec.and_append]; rfl
  have hmatch : (0x0900 : BitVec 16) ||| c.setWidth 16 = marker.setWidth 8 ++ c.setWidth 8 := by
    revert c; decide
  rw [hmask, hmatch]
  simp only [← BitVec.toNat_inj, toNat_append_eq_add, BitVec.toNat_setWidth]
  omega

theorem headerWord_marker_iff {a b : Byte} :
    (a ++ b : BitVec 16) &&& 0x3F00 = 0x0900 ↔ bits a 0 6 = marker := by
  have hmask : (a ++ b : BitVec 16) &&& 0x3F00 = (bits a 0 6).setWidth 8 ++ (0 : Byte) := by
    rw [← and_low_six, show (0 : Byte) = b &&& 0 from BitVec.and_zero.symm, ← BitVec.and_append]; rfl
  have hmatch : (0x0900 : BitVec 16) = marker.setWidth 8 ++ (0 : Byte) := by decide
  rw [hmask, hmatch]
  simp only [← BitVec.toNat_inj, toNat_append_eq_add, BitVec.toNat_setWidth]
  omega

/-! ### The decoder reads back what the encoder writes -/

theorem dataByte_packetOf (code : BitVec 6) (d : Vector Byte 16) (i : Fin 16) :
    dataByte (packetOf code d) i = d[i] := by
  fin_cases i <;> rfl

theorem isMarker_packetOf (code : BitVec 6) (d : Vector Byte 16) : isMarker (packetOf code d) = true := rfl

theorem getElem_one_packetOf (code : BitVec 6) (d : Vector Byte 16) : (packetOf code d)[1].toNat = code.toNat := by
  show (code.setWidth 8).toNat = code.toNat
  rw [BitVec.toNat_setWidth, Nat.mod_eq_of_lt (by omega)]

theorem packetCode_packetOf (code : BitVec 6) (d : Vector Byte 16) : packetCode (packetOf code d) = code :=
  bits_setWidth code (by omega)

/-- Byte 5 of a scroll command (30_encoding.md R83). -/
theorem bits_hScrollByte (hCmd : BitVec 2) (hOffset : BitVec 3) :
    bits (0#2 ++ hCmd ++ 0#1 ++ hOffset) 4 2 = hCmd ∧ bits (0#2 ++ hCmd ++ 0#1 ++ hOffset) 0 3 = hOffset := by
  revert hCmd hOffset; decide

/-- Byte 6 of a scroll command (30_encoding.md R83). -/
theorem bits_vScrollByte (vCmd : BitVec 2) (vOffset : BitVec 4) :
    bits (0#2 ++ vCmd ++ vOffset) 4 2 = vCmd ∧ bits (0#2 ++ vCmd ++ vOffset) 0 4 = vOffset := by
  revert vCmd vOffset; decide

theorem unpackColor_pack (c : Rgb4) : unpackColor (colorHi c) (colorLo c) = c := by
  obtain ⟨r, g, b⟩ := c
  have hred : ∀ (r : BitVec 4) (g : BitVec 2), bits (0#2 ++ r ++ g) 2 4 = r ∧ bits (0#2 ++ r ++ g) 0 2 = g := by
    decide
  have hblue : ∀ (g : BitVec 2) (b : BitVec 4), bits (0#2 ++ g ++ b) 4 2 = g ∧ bits (0#2 ++ g ++ b) 0 4 = b := by
    decide
  have hgreen : ∀ g : BitVec 4, g.extractLsb' 2 2 ++ g.extractLsb' 0 2 = g := by decide
  simp only [unpackColor, colorHi, colorLo, (hred _ _).1, (hred _ _).2, (hblue _ _).1, (hblue _ _).2, hgreen]

theorem maskField_tileData (color0 color1 : BitVec 4) (row : BitVec 5) (column : BitVec 6)
    (mask : Vector (BitVec 6) 12) :
    maskField (fun i => (tileData color0 color1 row column mask)[i]) = mask := by
  have hbyte (r : Fin 12) :
      (tileData color0 color1 row column mask)[4 + r.val] = mask[r.val].setWidth 8 := by fin_cases r <;> rfl
  refine Vector.ext fun r hr => ?_
  rw [getElem_maskField _ ⟨r, hr⟩]
  exact (congrArg (bits · 0 6) (hbyte ⟨r, hr⟩)).trans (bits_setWidth _ (by omega))

theorem colorsField_clutData (colors : Vector Rgb4 8) : colorsField (fun i => (clutData colors)[i]) = colors := by
  have hbytes (k : Fin 8) : (clutData colors)[2 * k.val] = colorHi colors[k.val] ∧
      (clutData colors)[2 * k.val + 1] = colorLo colors[k.val] := by fin_cases k <;> exact ⟨rfl, rfl⟩
  refine Vector.ext fun k hk => ?_
  obtain ⟨hhi, hlo⟩ := hbytes ⟨k, hk⟩
  rw [getElem_colorsField _ ⟨k, hk⟩]
  exact (congrArg₂ unpackColor hhi hlo).trans (unpackColor_pack _)

theorem decodeOperands_encodeData (i : Instr) : decodeOperands i.opcode (fun j => (encodeData i)[j]) = i := by
  cases i with
  | memPreset color rep => simp [encodeData, shortData, decodeOperands, Instr.opcode, bits_setWidth]
  | borderPreset color => simp [encodeData, shortData, decodeOperands, Instr.opcode, bits_setWidth]
  | tile color0 color1 row column mask | tileXor color0 color1 row column mask =>
    simp only [encodeData, decodeOperands, Instr.opcode, maskField_tileData]
    simp [tileData, bits_setWidth]
  | scrollPreset color hCmd hOffset vCmd vOffset =>
    simp [encodeData, scrollData, decodeOperands, Instr.opcode, bits_setWidth, bits_hScrollByte, bits_vScrollByte]
  | scrollCopy hCmd hOffset vCmd vOffset =>
    simp [encodeData, scrollData, decodeOperands, Instr.opcode, bits_hScrollByte, bits_vScrollByte]
  | loadClutLo colors | loadClutHi colors =>
    simp only [encodeData, decodeOperands, Instr.opcode, colorsField_clutData]
  | defTransp => rfl

theorem decode_encode (i : Instr) : decode (encode i) = .ok i := by
  have hdata : dataByte (encode i) = fun j => (encodeData i)[j] := funext (dataByte_packetOf _ _)
  refine decode_eq_ok_iff.2 ⟨isMarker_packetOf _ _, ?_, ?_⟩
  · rw [encode, packetCode_packetOf, opcodeOfCode_codeOfOpcode]
  · rw [hdata, decodeOperands_encodeData]

/-! ### Well-formed lines -/

theorem fits_iff {w v : Nat} : fits w v = true ↔ v < 2 ^ w := by
  simp [fits]

@[simp] theorem fits_toNat {w : Nat} (x : BitVec w) : fits w x.toNat = true := fits_iff.2 x.isLt

@[simp] theorem colorsFit_toNats (colors : Vector Rgb4 8) : colorsFit (colors.toList.map Rgb4.toNats) = true := by
  simp [colorsFit, Rgb4.toNats]

theorem tileOperandsFit_toNat (color0 color1 : BitVec 4) (row : BitVec 5) (column : BitVec 6)
    (mask : Vector (BitVec 6) 12) : tileOperandsFit color0.toNat color1.toNat row.toNat column.toNat
      (mask.toList.map BitVec.toNat) = true := by
  simp [tileOperandsFit]

theorem scrollOperandsFit_toNat (hCmd : BitVec 2) (hOffset : BitVec 3) (vCmd : BitVec 2) (vOffset : BitVec 4) :
    scrollOperandsFit hCmd.toNat hOffset.toNat vCmd.toNat vOffset.toNat = true := by
  simp [scrollOperandsFit]

/-- Every operand of an instruction has its field's width, so its line is well formed (30_encoding.md R87). -/
theorem wellFormed_toLine (i : Instr) : i.toLine.wellFormed = true := by
  cases i with
  | memPreset color rep | borderPreset color => simp [Instr.toLine, AsmLine.wellFormed]
  | tile color0 color1 row column mask | tileXor color0 color1 row column mask =>
    exact tileOperandsFit_toNat color0 color1 row column mask
  | scrollPreset color hCmd hOffset vCmd vOffset =>
    simp [Instr.toLine, AsmLine.wellFormed, scrollOperandsFit_toNat]
  | scrollCopy hCmd hOffset vCmd vOffset => exact scrollOperandsFit_toNat hCmd hOffset vCmd vOffset
  | loadClutLo colors | loadClutHi colors => exact colorsFit_toNats colors
  | defTransp => rfl

end Sys2Proof

namespace Sys2Proof.Machine

/-! ### The obligations -/

/-- Settles O1: the operands have their fields' widths, and the decoder reads each field back. -/
theorem decodeOfEncodeIsTheInstruction : Obligations.DecodeOfEncodeIsTheInstruction := fun i =>
  ⟨wellFormed_toLine i, decode_encode i⟩

/-- Settles O2: twelve closed packets, decoded by evaluation. -/
theorem listedPacketsDecode : Obligations.ListedPacketsDecode := by
  unfold Obligations.ListedPacketsDecode
  decide +kernel

/-- Settles O5: marker, code and operands are fields inside bits 5:0 of their bytes. -/
theorem topBitsOfPacketBytesChangeNothing : Obligations.TopBitsOfPacketBytesChangeNothing := by
  intro s p q ops hpq
  have hmarker : isMarker p = isMarker q := by
    rw [isMarker_eq_marked, isMarker_eq_marked, Claims.marked, Claims.marked, hpq 0 (by omega) (by omega)]
  have hcode : packetCode p = packetCode q := packetCode_congr (hpq 1 (by omega) (by omega))
  have hoperands (op : Opcode) : decodeOperands op (dataByte p) = decodeOperands op (dataByte q) :=
    decodeOperands_congr (fun i => hpq (4 + i.val) (by omega) (by omega)) op
  have hdecode : decode p = decode q := by simp only [decode, hmarker, hcode, hoperands]
  exact step_pushPkt_congr hdecode s ops

/-- Settles O6: under the table's mask the header word is the marker and the code, and nothing else. -/
theorem headerWordSelectsTheCommand : Obligations.HeaderWordSelectsTheCommand := by
  intro p
  have hmarker : isMarker p = true ↔ bits p[0] 0 6 = marker := beq_iff_eq
  refine ⟨fun op k hk => ?_, ?_, fun c => ?_⟩
  · have hword : BitVec.ofNat 16 k = (BitVec.ofNat 6 k).setWidth 16 :=
      (by decide : ∀ c ∈ Claims.codes, BitVec.ofNat 16 c.2 = (BitVec.ofNat 6 c.2).setWidth 16) (op, k) hk
    rw [exists_decode_eq_ok_iff, opcodeOfCode_of_mem_codes hk, hword, headerWord_eq_iff, hmarker]
    rfl
  · rw [decode_eq_nonMarker_iff, ne_eq, headerWord_marker_iff, ← hmarker, Bool.not_eq_true]
  · rw [decode_eq_unrecognised_iff, headerWord_eq_iff, hmarker, ← opcodeOfCode_eq_none_iff, and_assoc]
    rfl

/-- Settles O7: the operands of each command, field by field. -/
theorem operandsAreTheNamedBits : Obligations.OperandsAreTheNamedBits := by
  intro p i hi
  obtain ⟨-, -, hoperands⟩ := decode_eq_ok_iff.1 hi
  generalize i.opcode = op at hoperands
  subst hoperands
  cases op with
  | memPreset | borderPreset => simp [decodeOperands, dataByte]
  | tile | tileXor =>
    simp only [decodeOperands]
    refine ⟨by simp [dataByte], by simp [dataByte], by simp [dataByte], by simp [dataByte], fun r => ?_⟩
    simp [getElem_maskField, dataByte, ← Nat.add_assoc]
  | scrollPreset | scrollCopy => simp [decodeOperands, dataByte]
  | loadClutLo | loadClutHi =>
    simp only [decodeOperands]
    intro k
    have hlo : dataByte p ⟨2 * k.val + 1, by omega⟩ = p[5 + 2 * k.val] := by
      simp only [dataByte, show 4 + (2 * k.val + 1) = 5 + 2 * k.val by omega]
    rw [getElem_colorsField, hlo]
    exact unpackColor_toNat (dataByte p ⟨2 * k.val, by omega⟩) p[5 + 2 * k.val]
  | defTransp => trivial

end Sys2Proof.Machine
end
section
/-!
The assembler (30_encoding.md R87 to R89): when it refuses a line, and that the line of a command assembles to
the command's encoding.
-/

namespace Sys2Proof.Machine

theorem fits_eq_false_iff {w v : Nat} : fits w v = false ↔ 2 ^ w ≤ v := by
  rw [← Bool.not_eq_true, fits_iff, Nat.not_lt]

theorem assemble_of_wellFormed {line : AsmLine} (h : line.wellFormed = true) :
    assemble line = some (linePackets line) := if_pos h

theorem assemble_eq_none_iff {line : AsmLine} : assemble line = none ↔ line.wellFormed = false := by
  simp [assemble]

/-! ### What does not fit -/

theorem tileOperandsFit_eq_false_iff {color0 color1 row column : Nat} {mask : List Nat} :
    tileOperandsFit color0 color1 row column mask = false ↔
      16 ≤ color0 ∨ 16 ≤ color1 ∨ 32 ≤ row ∨ 64 ≤ column ∨ mask.length ≠ 12 ∨ ∃ m ∈ mask, 64 ≤ m := by
  simp only [tileOperandsFit, Bool.and_eq_false_iff, beq_eq_false_iff_ne, List.all_eq_false, Bool.not_eq_true,
    fits_eq_false_iff, or_assoc]
  rfl

theorem scrollOperandsFit_eq_false_iff {hCmd hOffset vCmd vOffset : Nat} :
    scrollOperandsFit hCmd hOffset vCmd vOffset = false ↔
      4 ≤ hCmd ∨ 8 ≤ hOffset ∨ 4 ≤ vCmd ∨ 16 ≤ vOffset := by
  simp only [scrollOperandsFit, Bool.and_eq_false_iff, fits_eq_false_iff, or_assoc]
  rfl

theorem colorsFit_eq_false_iff {colors : List (Nat × Nat × Nat)} :
    colorsFit colors = false ↔
      colors.length ≠ 8 ∨ ∃ c ∈ colors, 16 ≤ c.1 ∨ 16 ≤ c.2.1 ∨ 16 ≤ c.2.2 := by
  simp only [colorsFit, Bool.and_eq_false_iff, beq_eq_false_iff_ne, List.all_eq_false, Bool.not_eq_true,
    fits_eq_false_iff, or_assoc]
  rfl

/-! ### The line of a command -/

theorem lineMask_toNat (mask : Vector (BitVec 6) 12) : lineMask (mask.toList.map BitVec.toNat) = mask := by
  refine Vector.ext fun r hr => ?_
  simp [lineMask]

theorem lineColors_toNats (colors : Vector Rgb4 8) : lineColors (colors.toList.map Rgb4.toNats) = colors := by
  refine Vector.ext fun k hk => ?_
  simp [lineColors, Rgb4.toNats]

theorem linePackets_toLine (i : Instr) : linePackets i.toLine = [encode i] := by
  cases i <;> simp [Instr.toLine, linePackets, lineMask_toNat, lineColors_toNats]

/-! ### The packets the other lines write out -/

theorem getElem_packetOf_zeros (code : BitVec 6) {j : Nat} (hj : j < 24) (h2 : 2 ≤ j) :
    (packetOf code (Vector.replicate 16 0))[j] = 0 := by
  have hzero (k : Fin 22) : (packetOf code (Vector.replicate 16 0))[k.val + 2] = 0 := by
    fin_cases k <;> rfl
  simpa [Nat.sub_add_cancel h2] using hzero ⟨j - 2, by omega⟩

/-- A byte written out in a RAW line stands in the packet. -/
theorem toNat_packetFrom_ofNat {bytes : List Nat} (hlength : bytes.length = 24) (hbyte : ∀ b ∈ bytes, b < 256)
    {j : Nat} (hj : j < 24) : bytes[j]? = some (packetFrom (bytes.map (BitVec.ofNat 8)))[j].toNat := by
  have hlt : bytes[j] < 256 := hbyte _ (List.getElem_mem _)
  simp [packetFrom, hlength, hj, Nat.mod_eq_of_lt hlt]

/-! ### The obligations -/

/-- Settles O9: a command's operands pass through its line unchanged; the other lines are read off. -/
theorem assemblerAgreesWithTheEncoder : Obligations.AssemblerAgreesWithTheEncoder := by
  refine ⟨fun i => ?_, fun n => rfl, fun k hk => ?_, fun bytes hlength hbyte => ?_⟩
  · rw [assemble_of_wellFormed (wellFormed_toLine i), linePackets_toLine]
  · refine ⟨_, assemble_of_wellFormed (fits_iff.2 hk), rfl, ?_, fun j hj h2 => getElem_packetOf_zeros _ hj h2⟩
    rw [getElem_one_packetOf, BitVec.toNat_ofNat, Nat.mod_eq_of_lt hk]
  · refine ⟨_, assemble_of_wellFormed ?_, fun j hj => toNat_packetFrom_ofNat hlength hbyte hj⟩
    simpa [AsmLine.wellFormed, hlength, fits_iff] using hbyte

/-- Settles O48: a line is refused exactly when one of its checks fails, and each check is its field's width. -/
theorem assemblerRefusesWhatDoesNotFit : Obligations.AssemblerRefusesWhatDoesNotFit := by
  refine ⟨fun color rep h => ?_, fun color h => ?_, fun color0 color1 row column mask h => ⟨?_, ?_⟩,
    fun color hCmd hOffset vCmd vOffset h => ⟨?_, ?_⟩, fun color hCmd hOffset vCmd vOffset h => ?_,
    fun colors h => ⟨?_, ?_⟩, fun k h => ?_, fun bytes h => ?_⟩ <;> rw [assemble_eq_none_iff]
  · simpa only [AsmLine.wellFormed, Bool.and_eq_false_iff, fits_eq_false_iff, Nat.reducePow] using h
  · exact fits_eq_false_iff.2 h
  · exact tileOperandsFit_eq_false_iff.2 h
  · exact tileOperandsFit_eq_false_iff.2 h
  · simp [AsmLine.wellFormed, scrollOperandsFit_eq_false_iff.2 h]
  · exact scrollOperandsFit_eq_false_iff.2 h
  · simp only [AsmLine.wellFormed, (fits_eq_false_iff (w := 4)).2 h, Bool.false_and]
  · exact colorsFit_eq_false_iff.2 h
  · exact colorsFit_eq_false_iff.2 h
  · exact fits_eq_false_iff.2 h
  · simpa only [AsmLine.wellFormed, Bool.and_eq_false_iff, beq_eq_false_iff_ne, List.all_eq_false, Bool.not_eq_true,
      fits_eq_false_iff, Nat.reducePow] using h

end Sys2Proof.Machine
end
section
/-!
What a command and a packet do to the state, each said once as a function of the state found: every command writes
canvas, palette and sub-position, then the bookkeeping of 40_packet_reader.md R105 follows.
-/

namespace Sys2Proof.Machine

open Sys2Proof.Claims

/-! ### What a command writes -/

/-- The state after a command's own writes, before the bookkeeping of its packet. -/
def commandWrites (i : Instr) (s : State) : State :=
  match i with
  | .memPreset color rep => if s.prevMp = true ∧ rep ≠ 0 then s else s.withCanvas (Memory.fill color)
  | .borderPreset color => s.withCanvas (s.canvas.fillBorder color)
  | .tile color0 color1 row column mask =>
    s.withCanvas (s.canvas.drawTile (fun _ c => c) color0 color1 row column mask)
  | .tileXor color0 color1 row column mask =>
    s.withCanvas (s.canvas.drawTile (fun old c => old ^^^ c) color0 color1 row column mask)
  | .scrollPreset color hCmd hOffset vCmd vOffset =>
    (s.withCanvas (s.canvas.scrollPreset (hShift hCmd) (vShift vCmd) color)).withOffsets (clampHOffset hOffset)
      (clampVOffset vOffset)
  | .scrollCopy hCmd hOffset vCmd vOffset =>
    (s.withCanvas (s.canvas.scrollCopy (hShift hCmd) (vShift vCmd))).withOffsets (clampHOffset hOffset)
      (clampVOffset vOffset)
  | .loadClutLo colors => s.withPalette (loadPalette 0 colors s.palette)
  | .loadClutHi colors => s.withPalette (loadPalette 8 colors s.palette)
  | .defTransp => s

theorem scrollDx_eq_hShift (hCmd : BitVec 2) : scrollDx hCmd = hShift hCmd := scrollDx_eq hCmd

theorem scrollDy_eq_vShift (vCmd : BitVec 2) : scrollDy vCmd = vShift vCmd := scrollDy_eq vCmd

theorem paletteChanges_lo (colors : Vector Rgb4 8) (s : State) :
    paletteChanges 0 colors s.palette = changedBy (.loadClutLo colors) s := by
  rw [Bool.eq_iff_iff, paletteChanges_iff (by omega)]
  simp [changedBy]

theorem paletteChanges_hi (colors : Vector Rgb4 8) (s : State) :
    paletteChanges 8 colors s.palette = changedBy (.loadClutHi colors) s := by
  rw [Bool.eq_iff_iff, paletteChanges_iff (by omega)]
  simp [changedBy]

/-- When a MemoryPreset is suppressed, as a proposition (41_presets.md R130). -/
theorem suppressed_iff (s : State) (rep : BitVec 4) :
    (s.prevMp && rep != 0) = true ↔ s.prevMp = true ∧ rep ≠ 0 := by
  rw [Bool.and_eq_true, bne_iff_ne]

theorem changedBy_memPreset (color rep : BitVec 4) (s : State) :
    changedBy (.memPreset color rep) s = decide (¬ (s.prevMp = true ∧ rep ≠ 0)) := by
  simp only [changedBy, decide_not, Bool.decide_and, Bool.decide_eq_true]

/-- A command is its writes and then the bookkeeping, with the `changed` of 40_packet_reader.md R112's table. -/
theorem exec_eq (i : Instr) (s : State) :
    exec i s = .next ((commandWrites i s).finishMarker (decide (i.opcode = .memPreset)) (changedBy i s)) := by
  cases i with
  | memPreset color rep =>
    rw [changedBy_memPreset, commandWrites, exec, execMemPreset]
    by_cases hrepeat : s.prevMp = true ∧ rep ≠ 0
    · rw [if_pos ((suppressed_iff s rep).2 hrepeat), if_pos hrepeat, decide_eq_false (not_not_intro hrepeat)]; rfl
    · rw [if_neg (mt (suppressed_iff s rep).1 hrepeat), if_neg hrepeat, decide_eq_true hrepeat]; rfl
  | scrollPreset color hCmd hOffset vCmd vOffset =>
    rw [exec, execScrollPreset, scrollDx_eq_hShift, scrollDy_eq_vShift]; rfl
  | scrollCopy hCmd hOffset vCmd vOffset =>
    rw [exec, execScrollCopy, scrollDx_eq_hShift, scrollDy_eq_vShift]; rfl
  | loadClutLo colors => rw [exec, execLoadClutLo, paletteChanges_lo]; rfl
  | loadClutHi colors => rw [exec, execLoadClutHi, paletteChanges_hi]; rfl
  | borderPreset _ | tile _ _ _ _ _ | tileXor _ _ _ _ _ | defTransp => rfl

theorem commandWrites_of_repeat {s : State} {rep : BitVec 4} (h : s.prevMp = true ∧ rep ≠ 0) (color : BitVec 4) :
    commandWrites (.memPreset color rep) s = s := if_pos h

theorem commandWrites_of_not_repeat {s : State} {rep : BitVec 4} (h : ¬ (s.prevMp = true ∧ rep ≠ 0))
    (color : BitVec 4) : commandWrites (.memPreset color rep) s = s.withCanvas (Memory.fill color) := if_neg h

/-- A command's own writes leave the registers and the queue alone. -/
theorem commandWrites_keeps (i : Instr) (s : State) :
    (commandWrites i s).prevMp = s.prevMp ∧ (commandWrites i s).dirty = s.dirty ∧
    (commandWrites i s).pktPos = s.pktPos ∧ (commandWrites i s).lastUpd = s.lastUpd ∧
    (commandWrites i s).inbox = s.inbox := by
  cases i with
  | memPreset color rep =>
    simp only [commandWrites]
    split <;> simp
  | _ => simp [commandWrites]

@[simp] theorem commandWrites_prevMp (i : Instr) (s : State) : (commandWrites i s).prevMp = s.prevMp := by
  obtain ⟨h, -, -, -, -⟩ := commandWrites_keeps i s; exact h
@[simp] theorem commandWrites_dirty (i : Instr) (s : State) : (commandWrites i s).dirty = s.dirty := by
  obtain ⟨-, h, -, -, -⟩ := commandWrites_keeps i s; exact h
@[simp] theorem commandWrites_pktPos (i : Instr) (s : State) : (commandWrites i s).pktPos = s.pktPos := by
  obtain ⟨-, -, h, -, -⟩ := commandWrites_keeps i s; exact h
@[simp] theorem commandWrites_lastUpd (i : Instr) (s : State) : (commandWrites i s).lastUpd = s.lastUpd := by
  obtain ⟨-, -, -, h, -⟩ := commandWrites_keeps i s; exact h
@[simp] theorem commandWrites_inbox (i : Instr) (s : State) : (commandWrites i s).inbox = s.inbox := by
  obtain ⟨-, -, -, -, h⟩ := commandWrites_keeps i s; exact h

/-- The bookkeeping of a marker packet whose command has kept the registers and the queue. -/
theorem booked_finishMarker {s u : State} (hdirty : u.dirty = s.dirty) (hpos : u.pktPos = s.pktPos)
    (hupd : u.lastUpd = s.lastUpd) (hinbox : u.inbox = s.inbox) (isMemPreset changed : Bool) :
    Booked s (u.finishMarker isMemPreset changed) isMemPreset changed := by
  simp [Booked, hdirty, hpos, hupd, hinbox, sampleDue_eq]

theorem booked_commandWrites (i : Instr) (s : State) (isMemPreset changed : Bool) :
    Booked s ((commandWrites i s).finishMarker isMemPreset changed) isMemPreset changed :=
  booked_finishMarker (by simp) (by simp) (by simp) (by simp) _ _

/-! ### The writers of each item (10_state.md R33) -/

theorem opcode_of_canvas_ne {i : Instr} {s : State} (h : (commandWrites i s).canvas ≠ s.canvas) :
    i.opcode ∈ [.memPreset, .borderPreset, .tile, .tileXor, .scrollPreset, .scrollCopy] := by
  cases i with
  | loadClutLo _ | loadClutHi _ | defTransp => simp [commandWrites] at h
  | _ => simp [Instr.opcode]

theorem opcode_of_palette_ne {i : Instr} {s : State} (h : (commandWrites i s).palette ≠ s.palette) :
    i.opcode = .loadClutLo ∨ i.opcode = .loadClutHi := by
  cases i with
  | memPreset color rep =>
    simp only [commandWrites] at h
    split at h <;> simp at h
  | loadClutLo _ => exact .inl rfl
  | loadClutHi _ => exact .inr rfl
  | _ => simp [commandWrites] at h

theorem opcode_of_paletteLo_ne {i : Instr} {s : State} {k : Fin 8}
    (h : (commandWrites i s).palette[k.val] ≠ s.palette[k.val]) : i.opcode = .loadClutLo := by
  refine (opcode_of_palette_ne fun hpal => h (by rw [hpal])).resolve_right fun hop => h ?_
  cases i with
  | loadClutHi colors => exact (getElem_loadPalette 8 colors s.palette k (by omega)).trans (dif_neg (by omega))
  | _ => exact nomatch hop

theorem opcode_of_paletteHi_ne {i : Instr} {s : State} {k : Fin 8}
    (h : (commandWrites i s).palette[8 + k.val] ≠ s.palette[8 + k.val]) : i.opcode = .loadClutHi := by
  refine (opcode_of_palette_ne fun hpal => h (by rw [hpal])).resolve_left fun hop => h ?_
  cases i with
  | loadClutLo colors =>
    exact (getElem_loadPalette 0 colors s.palette (8 + k) (by omega)).trans (dif_neg (by omega))
  | _ => exact nomatch hop

theorem opcode_of_offsets_ne {i : Instr} {s : State}
    (h : (commandWrites i s).hoff ≠ s.hoff ∨ (commandWrites i s).voff ≠ s.voff) :
    i.opcode ∈ [.scrollPreset, .scrollCopy] := by
  cases i with
  | memPreset color rep =>
    simp only [commandWrites] at h
    split at h <;> simp at h
  | scrollPreset _ _ _ _ _ | scrollCopy _ _ _ _ => simp [Instr.opcode]
  | _ => simp [commandWrites] at h

/-! ### The canvas reaches nothing but the canvas -/

theorem changedBy_withCanvas (i : Instr) (s : State) (m : Memory) : changedBy i (s.withCanvas m) = changedBy i s := by
  cases i <;> rfl

theorem finishMarker_withCanvas (s : State) (m : Memory) (isMemPreset changed : Bool) :
    (s.withCanvas m).finishMarker isMemPreset changed = (s.finishMarker isMemPreset changed).withCanvas m := by
  cases changed <;> rfl

theorem commandWrites_withCanvas (i : Instr) (s : State) (m : Memory) :
    commandWrites i (s.withCanvas m) = (commandWrites i s).withCanvas (commandWrites i (s.withCanvas m)).canvas := by
  cases i with
  | memPreset color rep =>
    by_cases hrepeat : s.prevMp = true ∧ rep ≠ 0
    · rw [commandWrites_of_repeat (s := s.withCanvas m) hrepeat, commandWrites_of_repeat hrepeat]; rfl
    · rw [commandWrites_of_not_repeat (s := s.withCanvas m) hrepeat, commandWrites_of_not_repeat hrepeat]; rfl
  | _ => rfl

/-! ### A command neither reads nor writes the queue -/

theorem changedBy_withInbox (i : Instr) (s : State) (ops : List HostOp) :
    changedBy i (s.withInbox ops) = changedBy i s := by
  cases i <;> rfl

theorem finishMarker_withInbox (s : State) (ops : List HostOp) (isMemPreset changed : Bool) :
    (s.withInbox ops).finishMarker isMemPreset changed = (s.finishMarker isMemPreset changed).withInbox ops := by
  cases changed <;> rfl

theorem commandWrites_withInbox (i : Instr) (s : State) (ops : List HostOp) :
    commandWrites i (s.withInbox ops) = (commandWrites i s).withInbox ops := by
  cases i with
  | memPreset color rep =>
    by_cases hrepeat : s.prevMp = true ∧ rep ≠ 0
    · rw [commandWrites_of_repeat (s := s.withInbox ops) hrepeat, commandWrites_of_repeat hrepeat]
    · rw [commandWrites_of_not_repeat (s := s.withInbox ops) hrepeat, commandWrites_of_not_repeat hrepeat]; rfl
  | _ => rfl

/-! ### What a packet does -/

/-- The state a packet leaves (`Step` of 40_packet_reader.md R105). -/
def packetEffect (p : Packet) (s : State) : State :=
  match decode p with
  | .ok i => (commandWrites i s).finishMarker (decide (i.opcode = .memPreset)) (changedBy i s)
  | .error (.unrecognised _) => s.finishMarker false false
  | .error .nonMarker => s.countPacket

theorem applyPacket_eq (p : Packet) (s : State) : applyPacket p s = .next (packetEffect p s) := by
  cases hdecode : decode p with
  | ok i => simp only [applyPacket, packetEffect, hdecode, exec_eq]
  | error e => cases e <;> simp only [applyPacket, packetEffect, hdecode] <;> rfl

/-- Every packet completes (60_exceptions.md R230). -/
theorem step_of_pushPkt {s : State} {p : Packet} {ops : List HostOp} (h : s.inbox = .pushPkt p :: ops) :
    step s = .next (packetEffect p (s.withInbox ops)) := by
  rw [step_cons h]; exact applyPacket_eq p _

theorem packetEffect_of_decode {p : Packet} {i : Instr} (h : decode p = .ok i) (s : State) :
    packetEffect p s = (commandWrites i s).finishMarker (decide (i.opcode = .memPreset)) (changedBy i s) := by
  simp only [packetEffect, h]

theorem packetEffect_of_nonMarker {p : Packet} (h : marked p = false) (s : State) :
    packetEffect p s = s.countPacket := by
  have hdecode : decode p = .error .nonMarker := decode_eq_nonMarker_iff.2 (by rwa [isMarker_eq_marked])
  simp only [packetEffect, hdecode]

theorem packetEffect_of_unrecognised {p : Packet} (hmarked : marked p = true)
    (hcode : ∀ op k, (op, k) ∈ codes → p[1].toNat % 64 ≠ k) (s : State) :
    packetEffect p s = s.finishMarker false false := by
  have hdecode : decode p = .error (.unrecognised (packetCode p)) := by
    rw [decode_eq_unrecognised_iff, isMarker_eq_marked, opcodeOfCode_eq_none_iff, packetCode_toNat]
    exact ⟨hmarked, rfl, hcode⟩
  simp only [packetEffect, hdecode]

/-- A packet is a command, a marker packet of no command, or no marker packet. -/
theorem packetEffect_cases (p : Packet) (s : State) :
    (∃ i, decode p = .ok i ∧
      packetEffect p s = (commandWrites i s).finishMarker (decide (i.opcode = .memPreset)) (changedBy i s)) ∨
    packetEffect p s = s.finishMarker false false ∨ packetEffect p s = s.countPacket := by
  unfold packetEffect
  split
  · next i hi => exact .inl ⟨i, hi, rfl⟩
  · exact .inr (.inl rfl)
  · exact .inr (.inr rfl)

@[simp] theorem packetEffect_inbox (p : Packet) (s : State) : (packetEffect p s).inbox = s.inbox := by
  obtain ⟨i, -, h⟩ | h | h := packetEffect_cases p s <;> simp [h]

@[simp] theorem packetEffect_pktPos (p : Packet) (s : State) : (packetEffect p s).pktPos = s.pktPos + 1 := by
  obtain ⟨i, -, h⟩ | h | h := packetEffect_cases p s <;> simp [h]

theorem packetEffect_reply (p : Packet) (s : State) :
    (packetEffect p s).reply = some (.sampleDue (sampleDue (packetEffect p s).pktPos)) := by
  obtain ⟨i, -, h⟩ | h | h := packetEffect_cases p s <;> simp [h]

theorem withCanvas_withCanvas_self (s : State) (m : Memory) : (s.withCanvas m).withCanvas s.canvas = s := rfl

/-- Whatever canvas a packet finds, it leaves the same state but for the canvas. -/
theorem packetEffect_withCanvas (p : Packet) (s : State) (m : Memory) :
    (packetEffect p (s.withCanvas m)).withCanvas (packetEffect p s).canvas = packetEffect p s := by
  cases hdecode : decode p with
  | ok i =>
    rw [packetEffect_of_decode hdecode, packetEffect_of_decode hdecode, commandWrites_withCanvas,
      changedBy_withCanvas, finishMarker_withCanvas, withCanvas_withCanvas_self]
  | error e =>
    cases e with
    | unrecognised c => simp only [packetEffect, hdecode, finishMarker_withCanvas, withCanvas_withCanvas_self]
    | nonMarker => simp only [packetEffect, hdecode]; rfl

/-- What a packet does depends on no operation waiting after it. -/
theorem packetEffect_withInbox (p : Packet) (s : State) (ops : List HostOp) :
    packetEffect p (s.withInbox ops) = (packetEffect p s).withInbox ops := by
  cases hdecode : decode p with
  | ok i =>
    rw [packetEffect_of_decode hdecode, packetEffect_of_decode hdecode, commandWrites_withInbox, changedBy_withInbox,
      finishMarker_withInbox]
  | error e =>
    cases e with
    | unrecognised c => simp only [packetEffect, hdecode, finishMarker_withInbox]
    | nonMarker => simp only [packetEffect, hdecode]; rfl

/-- A packet never clears `DIRTY` (10_state.md R29). -/
theorem packetEffect_dirty_of_dirty {p : Packet} {s : State} (hdirty : s.dirty = true) :
    (packetEffect p s).dirty = true := by
  obtain ⟨i, -, h⟩ | h | h := packetEffect_cases p s <;> simp [h, hdirty]

/-- A command's packet sets `PREV_MP` when it is a MemoryPreset, every other marker packet clears it, and a
non-marker packet keeps it (40_packet_reader.md R107, R111). -/
theorem packetEffect_prevMp (p : Packet) (s : State) :
    (packetEffect p s).prevMp = if marked p then p[1].toNat % 64 == 1 else s.prevMp := by
  cases hmarked : marked p with
  | false => simp [packetEffect_of_nonMarker hmarked]
  | true =>
    have hpreset : (p[1].toNat % 64 == 1) = true ↔ ∃ color rep, decode p = .ok (.memPreset color rep) := by
      rw [exists_decode_eq_memPreset_iff, beq_iff_eq, hmarked]; simp
    rw [if_pos rfl, Bool.eq_iff_iff, hpreset]
    unfold packetEffect
    split
    · next i hi =>
      cases i <;> simp [hi, Instr.opcode]
    · next hi => simp [hi]
    · next hi =>
      rw [decode_eq_nonMarker_iff, isMarker_eq_marked, hmarked] at hi
      exact nomatch hi

/-! ### What an operation does -/

/-- An operation that answers a next state is a packet, one of the three that clear registers, or a read port, which
changes the reply only (60_exceptions.md R236). -/
theorem applyOp_cases {op : HostOp} {s t : State} (h : applyOp op s = .next t) :
    (∃ p, op = .pushPkt p ∧ t = packetEffect p s) ∨
    (op = .clearDirty ∧ t = { s with dirty := false, reply := none }) ∨
    (op = .reset ∧ t = State.reset.withInbox s.inbox) ∨
    (op = .restart ∧ t = { s with pktPos := 0, lastUpd := 0, prevMp := false, dirty := false, reply := none }) ∨
    ∃ r, t = s.withReply r := by
  cases op with
  | pushPkt p => exact .inl ⟨p, rfl, Host.Outcome.next.inj (h.symm.trans (applyPacket_eq p s))⟩
  | clearDirty => exact .inr (.inl ⟨rfl, (Host.Outcome.next.inj h).symm⟩)
  | reset => exact .inr (.inr (.inl ⟨rfl, (Host.Outcome.next.inj h).symm⟩))
  | restart => exact .inr (.inr (.inr (.inl ⟨rfl, (Host.Outcome.next.inj h).symm⟩)))
  | rdPal i => exact .inr (.inr (.inr (.inr ⟨_, (Host.Outcome.next.inj h).symm⟩)))
  | rdStatus => exact .inr (.inr (.inr (.inr ⟨_, (Host.Outcome.next.inj h).symm⟩)))
  | rdPix x y =>
    simp only [applyOp, readPixel] at h
    split at h
    · exact .inr (.inr (.inr (.inr ⟨_, (Host.Outcome.next.inj h).symm⟩)))
    · exact nomatch h
  | rdWin u v =>
    simp only [applyOp, readWindow] at h
    split at h
    · exact .inr (.inr (.inr (.inr ⟨_, (Host.Outcome.next.inj h).symm⟩)))
    · exact nomatch h

end Sys2Proof.Machine
end
section
/-!
The commands one by one (41_presets.md to 45_no_effect.md): what each leaves in canvas, palette and sub-position.
-/

namespace Sys2Proof.Machine

open Sys2Proof.Claims

namespace Memory

/-! ### Tiles -/

/-- Drawing depends on row and column through the tile's place only (42_tile_block.md R150). -/
theorem drawTile_congr {row row' : BitVec 5} {column column' : BitVec 6} (htop : tileTop row = tileTop row')
    (hleft : tileLeft column = tileLeft column') (m : Memory) (combine : Cell → Cell → Cell)
    (color0 color1 : Cell) (mask : Vector (BitVec 6) 12) :
    m.drawTile combine color0 color1 row column mask = m.drawTile combine color0 color1 row' column' mask := by
  simp only [drawTile, htop, hleft]

/-- The same tile XORed twice (42_tile_block.md R154). -/
theorem drawTile_xor_xor {m : Memory} (h : m.wf = true) (color0 color1 : Cell) (row : BitVec 5)
    (column : BitVec 6) (mask : Vector (BitVec 6) 12) :
    (m.drawTile (fun old c => old ^^^ c) color0 color1 row column mask).drawTile (fun old c => old ^^^ c) color0
      color1 row column mask = m := by
  have hw := wf_drawTile h (fun old c => old ^^^ c) color0 color1 row column mask
  refine pixel_ext (wf_drawTile hw _ _ _ _ _ _) h fun x y hx _ => ?_
  by_cases hin : tileLeft column ≤ x ∧ x < tileLeft column + 6 ∧ tileTop row ≤ y ∧ y < tileTop row + 12
  · obtain ⟨hleft, _, htop, _⟩ := hin
    obtain ⟨b, rfl⟩ : ∃ b : Fin 6, x = tileLeft column + b.val :=
      ⟨⟨x - tileLeft column, by omega⟩, (Nat.add_sub_cancel' hleft).symm⟩
    obtain ⟨r, rfl⟩ : ∃ r : Fin 12, y = tileTop row + r.val :=
      ⟨⟨y - tileTop row, by omega⟩, (Nat.add_sub_cancel' htop).symm⟩
    rw [pixel_drawTile_in hw, pixel_drawTile_in h, BitVec.xor_assoc, BitVec.xor_self, BitVec.xor_zero]
  · rw [pixel_drawTile_out hw _ _ _ _ _ _ hx hin, pixel_drawTile_out h _ _ _ _ _ _ hx hin]

/-- XOR over the tile just drawn (42_tile_block.md R154). -/
theorem pixel_drawTile_replace_xor {m : Memory} (h : m.wf = true) (color0 color1 : Cell) (row : BitVec 5)
    (column : BitVec 6) (mask : Vector (BitVec 6) 12) (r : Fin 12) (b : Fin 6) :
    ((m.drawTile (fun _ c => c) color0 color1 row column mask).drawTile (fun old c => old ^^^ c) color0 color1 row
      column mask).pixel (tileLeft column + b.val) (tileTop row + r.val) = 0 := by
  rw [pixel_drawTile_in (wf_drawTile h _ _ _ _ _ _), pixel_drawTile_in h]
  exact BitVec.xor_self

/-! ### Scrolls -/

/-- A copy scroll undone by the opposite one (43_scroll.md R179). -/
theorem scrollCopy_neg {m : Memory} (h : m.wf = true) (dx dy : Int) :
    (m.scrollCopy dx dy).scrollCopy (-dx) (-dy) = m := by
  refine pixel_ext (wf_scrollCopy (wf_scrollCopy h _ _) _ _) h fun x y hx hy => ?_
  rw [pixel_scrollCopy _ _ _ hx hy, pixel_scrollCopy _ _ _ (by omega) (by omega)]
  congr 1 <;> omega

end Memory

/-! ### Clamped operands (60_exceptions.md R231) -/

theorem tileTop_clamped (row : BitVec 5) : tileTop (BitVec.ofNat 5 (min row.toNat 17)) = tileTop row := by
  revert row; decide

theorem tileLeft_clamped (column : BitVec 6) : tileLeft (BitVec.ofNat 6 (min column.toNat 49)) = tileLeft column := by
  revert column; decide

theorem clampHOffset_clamped (h : BitVec 3) : clampHOffset (BitVec.ofNat 3 (min h.toNat 5)) = clampHOffset h := by
  revert h; decide

theorem clampVOffset_clamped (v : BitVec 4) : clampVOffset (BitVec.ofNat 4 (min v.toNat 11)) = clampVOffset v := by
  revert v; decide

/-! ### The palette loads -/

/-- The eight entries a load from `base` writes. -/
theorem getElem_loadPalette_in {base : Nat} (hb : base ≤ 8) (colors : Vector Rgb4 8) (pal : Vector Rgb4 16)
    (k : Fin 8) : (loadPalette base colors pal)[base + k.val] = colors[k.val] := by
  rw [getElem_loadPalette, dif_pos (by omega)]
  simp

/-- An entry outside the eight a load writes. -/
theorem getElem_loadPalette_out {base j : Nat} (colors : Vector Rgb4 8) (pal : Vector Rgb4 16) (hj : j < 16)
    (hout : j < base ∨ base + 8 ≤ j) : (loadPalette base colors pal)[j] = pal[j] := by
  rw [getElem_loadPalette, dif_neg (by omega)]

/-! ### The obligations -/

/-- Settles O13: packets by their two kinds without a command; clamped operands give the same place and offsets. -/
theorem everyPacketHasADefinedEffect : Obligations.EveryPacketHasADefinedEffect := by
  refine ⟨fun s p ops hs => ⟨_, step_of_pushPkt hs, fun hmarked => ?_, fun hmarked hcode => ?_⟩,
    fun s color0 color1 row column mask => ?_, fun s color hCmd hOffset vCmd vOffset => ?_⟩
  · rw [packetEffect_of_nonMarker hmarked]
    simp [KeepsPaletteAndOffsets]
  · rw [packetEffect_of_unrecognised hmarked hcode]
    simp [KeepsPaletteAndOffsets]
  · have hplace := Memory.drawTile_congr (tileTop_clamped row) (tileLeft_clamped column)
    simp only [exec, execTile, execTileXor, hplace, and_self]
  · simp only [exec, execScrollPreset, execScrollCopy, clampHOffset_clamped, clampVOffset_clamped, and_self]

/-- Settles O14: suppressed, the command writes nothing; applied, it fills the canvas. -/
theorem memPresetFillsUnlessItRepeats : Obligations.MemPresetFillsUnlessItRepeats := by
  intro color rep s
  have hbooked := booked_commandWrites (.memPreset color rep) s true
  refine ⟨_, exec_eq _ s, ?_⟩
  rw [changedBy_memPreset]
  by_cases hrepeat : s.prevMp = true ∧ rep ≠ 0
  · rw [commandWrites_of_repeat hrepeat] at hbooked ⊢
    rw [decide_eq_false (not_not_intro hrepeat)]
    exact ⟨by simp [KeepsPaletteAndOffsets], fun _ => ⟨by simp, hbooked false⟩, fun h => absurd hrepeat h⟩
  · rw [commandWrites_of_not_repeat hrepeat] at hbooked ⊢
    rw [decide_eq_true hrepeat]
    refine ⟨by simp [KeepsPaletteAndOffsets], fun h => absurd h hrepeat, fun _ => ⟨?_, hbooked true⟩⟩
    rw [State.finishMarker_canvas, State.withCanvas_canvas]
    exact ⟨Memory.wf_fill color, fun x y hx hy => Memory.pixel_fill color hx hy⟩

/-- Settles O15: the canvas is gathered cell by cell, border cells from the colour. -/
theorem borderPresetFillsTheBorderOnly : Obligations.BorderPresetFillsTheBorderOnly := by
  intro color s
  refine ⟨_, exec_eq _ s, ⟨?_, fun x y hx hy => ?_⟩, by simp [KeepsPaletteAndOffsets, commandWrites],
    booked_commandWrites (.borderPreset color) s false true⟩
  · rw [State.finishMarker_canvas]
    exact Memory.wf_fillBorder _ _
  · rw [State.finishMarker_canvas, commandWrites, State.withCanvas_canvas, Memory.pixel_fillBorder _ _ hx hy]
    simp [inBorder, or_assoc]

/-- Settles O16: the tile's pixels by `pixel_drawTile_in`, the others by `pixel_drawTile_out`. -/
theorem tileReplacesItsPixels : Obligations.TileReplacesItsPixels := by
  intro color0 color1 row column mask s hw
  refine ⟨_, exec_eq _ s, ?_⟩
  simp only [State.finishMarker_canvas, commandWrites, State.withCanvas_canvas]
  exact ⟨Memory.wf_drawTile hw _ _ _ _ _ _, fun r b => Memory.pixel_drawTile_in hw _ _ _ _ _ _ r b,
    fun x y hx _ hout => Memory.pixel_drawTile_out hw _ _ _ _ _ _ hx hout, by simp [KeepsPaletteAndOffsets],
    booked_commandWrites (.tile color0 color1 row column mask) s false true⟩

/-- Settles O17: as O16, each pixel combined with its old value. -/
theorem tileXorCombinesItsPixels : Obligations.TileXorCombinesItsPixels := by
  intro color0 color1 row column mask s hw
  refine ⟨_, exec_eq _ s, ?_⟩
  simp only [State.finishMarker_canvas, commandWrites, State.withCanvas_canvas]
  exact ⟨Memory.wf_drawTile hw _ _ _ _ _ _, fun r b => Memory.pixel_drawTile_in hw _ _ _ _ _ _ r b,
    fun x y hx _ hout => Memory.pixel_drawTile_out hw _ _ _ _ _ _ hx hout, by simp [KeepsPaletteAndOffsets],
    booked_commandWrites (.tileXor color0 color1 row column mask) s false true⟩

/-- Settles O18: XOR is its own inverse, pixel by pixel. -/
theorem tileXorTwiceRestoresTheCanvas : Obligations.TileXorTwiceRestoresTheCanvas := by
  intro color0 color1 row column mask s hw
  refine ⟨⟨_, _, exec_eq _ s, exec_eq _ _, ?_⟩, ⟨_, _, exec_eq _ s, exec_eq _ _, fun r b => ?_⟩⟩
  · simp only [commandWrites, State.finishMarker_canvas, State.withCanvas_canvas]
    exact Memory.drawTile_xor_xor hw color0 color1 row column mask
  · simp only [commandWrites, State.finishMarker_canvas, State.withCanvas_canvas]
    exact Memory.pixel_drawTile_replace_xor hw color0 color1 row column mask r b

/-- Settles O20: the closed form of the two preset shifts, and the clamps. -/
theorem scrollPresetShiftsAndFills : Obligations.ScrollPresetShiftsAndFills := by
  intro color hCmd hOffset vCmd vOffset s hw
  refine ⟨_, exec_eq _ s, ?_⟩
  simp only [State.finishMarker_canvas, State.finishMarker_hoff, State.finishMarker_voff,
    State.finishMarker_palette, commandWrites, State.withOffsets_canvas, State.withCanvas_canvas,
    State.withOffsets_hoff, State.withOffsets_voff]
  exact ⟨⟨Memory.wf_scrollPreset hw _ _ _, fun x y hx hy => Memory.pixel_scrollPreset _ _ _ color hx hy⟩,
    toNat_clampHOffset hOffset, toNat_clampVOffset vOffset, by simp,
    booked_commandWrites (.scrollPreset color hCmd hOffset vCmd vOffset) s false true⟩

/-- Settles O21: the closed form of the two copy shifts, and the clamps. -/
theorem scrollCopyRotatesTheCanvas : Obligations.ScrollCopyRotatesTheCanvas := by
  intro hCmd hOffset vCmd vOffset s hw
  refine ⟨_, exec_eq _ s, ?_⟩
  simp only [State.finishMarker_canvas, State.finishMarker_hoff, State.finishMarker_voff,
    State.finishMarker_palette, commandWrites, State.withOffsets_canvas, State.withCanvas_canvas,
    State.withOffsets_hoff, State.withOffsets_voff]
  exact ⟨⟨Memory.wf_scrollCopy hw _ _, fun x y hx hy => Memory.pixel_scrollCopy _ _ _ hx hy⟩,
    toNat_clampHOffset hOffset, toNat_clampVOffset vOffset, by simp,
    booked_commandWrites (.scrollCopy hCmd hOffset vCmd vOffset) s false true⟩

/-- Settles O22: a copy scroll is undone by the copy scroll of the negated shifts. -/
theorem oppositeCopyScrollsRestoreTheCanvas : Obligations.OppositeCopyScrollsRestoreTheCanvas := by
  intro h h' v v' ho ho' vo vo' s hw hh hv
  refine ⟨_, _, exec_eq _ s, exec_eq _ _, ?_⟩
  simp only [State.finishMarker_canvas, State.finishMarker_hoff, State.finishMarker_voff, commandWrites,
    State.withOffsets_canvas, State.withCanvas_canvas, State.withOffsets_hoff, State.withOffsets_voff, hh, hv]
  exact ⟨Memory.scrollCopy_neg hw _ _, toNat_clampHOffset ho', toNat_clampVOffset vo'⟩

/-- Settles O23: a load from entry 0. -/
theorem loadClutLoWritesEntriesZeroToSeven : Obligations.LoadClutLoWritesEntriesZeroToSeven := by
  intro colors s
  refine ⟨_, exec_eq _ s, ?_⟩
  simp only [State.finishMarker_palette, State.finishMarker_canvas, State.finishMarker_hoff,
    State.finishMarker_voff, commandWrites, State.withPalette_palette]
  refine ⟨fun k => ?_, fun k => getElem_loadPalette_out colors s.palette (by omega) (.inr (by omega)), by simp,
    by simp, by simp, _, decide_eq_true_iff, booked_commandWrites (.loadClutLo colors) s false _⟩
  simpa using getElem_loadPalette_in (Nat.zero_le 8) colors s.palette k

/-- Settles O24: a load from entry 8. -/
theorem loadClutHiWritesEntriesEightToFifteen : Obligations.LoadClutHiWritesEntriesEightToFifteen := by
  intro colors s
  refine ⟨_, exec_eq _ s, ?_⟩
  simp only [State.finishMarker_palette, State.finishMarker_canvas, State.finishMarker_hoff,
    State.finishMarker_voff, commandWrites, State.withPalette_palette]
  exact ⟨getElem_loadPalette_in (Nat.le_refl 8) colors s.palette,
    fun k => getElem_loadPalette_out colors s.palette (by omega) (.inl (by omega)), by simp, by simp, by simp, _,
    decide_eq_true_iff, booked_commandWrites (.loadClutHi colors) s false _⟩

/-- Settles O26: DEFTRANSP writes nothing before the bookkeeping. -/
theorem defTranspOnlyBooks : Obligations.DefTranspOnlyBooks := fun s =>
  ⟨_, exec_eq .defTransp s, by simp [commandWrites], by simp [KeepsPaletteAndOffsets, commandWrites],
    booked_commandWrites .defTransp s false false⟩

/-- Settles O27: every command is its writes, which leave the books alone, and then the bookkeeping. -/
theorem everyCommandKeepsTheBooks : Obligations.EveryCommandKeepsTheBooks := fun i s =>
  ⟨_, exec_eq i s, booked_commandWrites i s _ _⟩

end Sys2Proof.Machine
end
section
/-!
Steps: what one step writes (10_state.md R33), the read ports and the clearing operations (60_exceptions.md R236),
and the invariant every step keeps.
-/

namespace Sys2Proof.Machine

open Sys2Proof.Claims

theorem step_withInbox_cons (s : State) (op : HostOp) (ops : List HostOp) :
    step (s.withInbox (op :: ops)) = applyOp op (s.withInbox ops) := step_cons (s := s.withInbox (op :: ops)) rfl

/-! ### The read ports -/

theorem readPixel_of_inRange {x y : Nat} (h : x < 300 ∧ y < 216) (s : State) :
    readPixel x y s = .next (s.withReply (some (.pixel (s.canvas.pixel x y)))) := if_pos h

theorem readPixel_of_outOfRange {x y : Nat} (h : ¬ (x < 300 ∧ y < 216)) (s : State) :
    readPixel x y s = .refused .pixelOutOfRange := if_neg h

theorem readWindow_of_inRange {u v : Nat} (h : u < 288 ∧ v < 192) (s : State) :
    readWindow u v s = .next (s.withReply (some (.window (s.canvas.pixel (windowX s u) (windowY s v))
      (expandColor s.palette[(s.canvas.pixel (windowX s u) (windowY s v)).toNat])))) := if_pos h

theorem readWindow_of_outOfRange {u v : Nat} (h : ¬ (u < 288 ∧ v < 192)) (s : State) :
    readWindow u v s = .refused .windowOutOfRange := if_neg h

/-- The host does not issue an operation that is refused: what answers a next state is allowed (60_exceptions.md
R237). -/
theorem legalOp_of_applyOp_next {op : HostOp} {s t : State} (h : applyOp op s = .next t) :
    Safety.legalOp op = true := by
  cases op with
  | rdPix x y =>
    by_contra hop
    rw [applyOp, readPixel_of_outOfRange (by simpa [Safety.legalOp] using hop)] at h
    exact nomatch h
  | rdWin u v =>
    by_contra hop
    rw [applyOp, readWindow_of_outOfRange (by simpa [Safety.legalOp] using hop)] at h
    exact nomatch h
  | _ => rfl

/-- A window coordinate of a legal state lies in the canvas (20_memory.md R56). -/
theorem window_in_canvas {s : State} (hs : Safety.Inv s) {u v : Nat} (hu : u < 288) (hv : v < 192) :
    windowX s u ≤ 298 ∧ windowY s v ≤ 214 := by
  have hhoff := hs.hoff_legal
  have hvoff := hs.voff_legal
  simp only [windowX, windowY, Config.BX, Config.BY]
  omega

/-! ### Colours as they are read -/

theorem expandColor_toNat (c : Rgb4) :
    (expandColor c).r.toNat = c.r.toNat * 17 ∧ (expandColor c).g.toNat = c.g.toNat * 17 ∧
    (expandColor c).b.toNat = c.b.toNat * 17 :=
  ⟨toNat_expandChannel c.r, toNat_expandChannel c.g, toNat_expandChannel c.b⟩

theorem packColor_toNat (c : Rgb4) :
    (packColor c).toNat = c.r.toNat * 256 + c.g.toNat * 16 + c.b.toNat := by
  have hblue : (packColor c).toNat = (c.r ++ c.g).toNat * 2 ^ 4 + c.b.toNat := toNat_append_eq_add _ _
  rw [hblue, toNat_append_eq_add]
  omega

/-- The register view determines the entry (10_state.md R24). -/
theorem packColor_inj {c c' : Rgb4} (h : packColor c = packColor c') : c = c' := by
  have hnat := congrArg BitVec.toNat h
  rw [packColor_toNat, packColor_toNat] at hnat
  obtain ⟨r, g, b⟩ := c
  obtain ⟨r', g', b'⟩ := c'
  rw [Rgb4.mk.injEq]
  dsimp only at hnat
  refine ⟨BitVec.eq_of_toNat_eq ?_, BitVec.eq_of_toNat_eq ?_, BitVec.eq_of_toNat_eq ?_⟩ <;> omega

/-- The RGB888 colour determines the entry (10_state.md R25). -/
theorem expandColor_inj {c c' : Rgb4} (h : expandColor c = expandColor c') : c = c' := by
  obtain ⟨r, g, b⟩ := c
  obtain ⟨r', g', b'⟩ := c'
  simp only [expandColor, Rgb888.mk.injEq] at h
  obtain ⟨hr, hg, hb⟩ := h
  rw [expandChannel_inj hr, expandChannel_inj hg, expandChannel_inj hb]

/-! ### Legal states -/

/-- An allowed operation in a legal state leaves a legal state with the rest of the queue. -/
theorem safe_step {s : State} (hs : Safety.Safe s) : ∃ t, step s = .next t ∧ Safety.Safe t := by
  cases hq : s.inbox with
  | nil => exact ⟨s, step_nil hq, hs⟩
  | cons op ops =>
    have hlegal := hs.ops_legal
    rw [hq, List.forall_mem_cons] at hlegal
    obtain ⟨hop, hops⟩ := hlegal
    obtain ⟨t, ht, hinbox, hinv⟩ := applyOp_legal (s := s.withInbox ops) hop
    have htaken : Safety.Inv (s.withInbox ops) := ⟨hs.inv.canvas_wf, hs.inv.hoff_legal, hs.inv.voff_legal⟩
    exact ⟨t, (step_cons hq).trans ht, hinv htaken, hinbox ▸ hops⟩

/-! ### The obligations -/

/-- Settles O10: the packet of the waiting operation is dispatched on what it decodes to. -/
theorem stepRunsTheDecodedCommand : Obligations.StepRunsTheDecodedCommand := by
  intro s p ops i hs hi
  rw [step_of_pushPkt hs, packetEffect_of_decode hi, exec_eq]

/-- Settles O11: a packet without the marker is counted, and that is all. -/
theorem nonMarkerPacketOnlyCounts : Obligations.NonMarkerPacketOnlyCounts := by
  intro s p ops hs hmarked
  rw [step_of_pushPkt hs, packetEffect_of_nonMarker hmarked]
  rfl

/-- Settles O12: a marker packet of no command is only booked. -/
theorem unrecognisedCodeOnlyClearsPrevMp : Obligations.UnrecognisedCodeOnlyClearsPrevMp := by
  intro s p ops hs hmarked hcode
  rw [step_of_pushPkt hs, packetEffect_of_unrecognised hmarked hcode]
  rfl

/-- Settles O25: a load keeps canvas and offsets, so the index is the same cell; its colour is read afterwards. -/
theorem paletteLoadRecoloursTheWindow : Obligations.PaletteLoadRecoloursTheWindow := by
  intro i colors s t u v hi ht hu hv
  rw [exec_eq] at ht
  obtain rfl := Host.Outcome.next.inj ht
  have hkeeps : (commandWrites i s).canvas = s.canvas ∧ (commandWrites i s).hoff = s.hoff ∧
      (commandWrites i s).voff = s.voff := by
    rcases hi with rfl | rfl <;> simp [commandWrites]
  obtain ⟨hcanvas, hhoff, hvoff⟩ := hkeeps
  refine ⟨_, _, _, _, _, readWindow_of_inRange ⟨hu, hv⟩ s, rfl, readWindow_of_inRange ⟨hu, hv⟩ _, ?_,
    expandColor_toNat _⟩
  simp only [State.withReply_reply, windowX, windowY, State.finishMarker_canvas, State.finishMarker_hoff,
    State.finishMarker_voff, hcanvas, hhoff, hvoff]

/-- Settles O28: for each thing an operation can be, the items it writes. -/
theorem onlyTheNamedWritersWrite : Obligations.OnlyTheNamedWritersWrite := by
  intro s t hst took ran
  obtain ⟨-, rfl⟩ | ⟨op, ops, hq, hop⟩ := step_cases hst
  · simp +contextual
  have htook : took op := ⟨ops, hq⟩
  obtain ⟨p, rfl, rfl⟩ | ⟨rfl, rfl⟩ | ⟨rfl, rfl⟩ | ⟨rfl, rfl⟩ | ⟨r, rfl⟩ := applyOp_cases hop
  · have hpacket : ∃ p, took (.pushPkt p) := ⟨p, htook⟩
    have hclears : s.dirty = true → ¬ (packetEffect p (s.withInbox ops)).dirty = false := fun hd => by
      rw [packetEffect_dirty_of_dirty (s := s.withInbox ops) hd]; decide
    obtain ⟨i, hi, he⟩ | he | he := packetEffect_cases p (s.withInbox ops)
    · rw [he] at hclears ⊢
      simp only [State.finishMarker_canvas, State.finishMarker_palette, State.finishMarker_hoff,
        State.finishMarker_voff]
      exact ⟨fun h => .inr ⟨p, i, htook, hi, opcode_of_canvas_ne h⟩,
        fun k h => .inr ⟨p, i, htook, hi, opcode_of_paletteLo_ne h⟩,
        fun k h => .inr ⟨p, i, htook, hi, opcode_of_paletteHi_ne h⟩,
        fun h => .inr ⟨p, i, htook, hi, opcode_of_offsets_ne h⟩,
        fun _ => .inr (.inr hpacket), fun _ _ => hpacket, fun hd h => absurd h (hclears hd)⟩
    · simp +contextual [he, hpacket]
    · simp +contextual [he, hpacket]
  · simp [htook]
  · simp [htook, show State.reset.dirty = false from rfl]
  · simp [htook]
  · simp +contextual

/-- Settles O29: neither `changed` nor a write outside the canvas looks at a cell. -/
theorem packetsKeepCanvasContentsInTheCanvas : Obligations.PacketsKeepCanvasContentsInTheCanvas := by
  intro s t m p ops hs hst
  rw [step_of_pushPkt hs] at hst
  obtain rfl := Host.Outcome.next.inj hst
  refine ⟨_, step_of_pushPkt (s := s.withCanvas m) hs, ?_⟩
  exact packetEffect_withCanvas p (s.withInbox ops) m

/-- Settles O37: what steps was an allowed operation, and those keep a legal state legal. -/
theorem everyStepKeepsTheStateLegal : Obligations.EveryStepKeepsTheStateLegal := by
  intro s t hs hst
  obtain ⟨-, rfl⟩ | ⟨op, ops, -, hop⟩ := step_cases hst
  · exact hs
  · obtain ⟨t', ht', -, hinv⟩ := applyOp_legal (s := s.withInbox ops) (legalOp_of_applyOp_next hop)
    obtain rfl := Host.Outcome.next.inj (ht'.symm.trans hop)
    exact hinv ⟨hs.canvas_wf, hs.hoff_legal, hs.voff_legal⟩

/-- Settles O38: an empty canvas, offsets 0 and an empty queue. -/
theorem resetStateIsLegal : Obligations.ResetStateIsLegal :=
  ⟨⟨rfl, Nat.zero_le 5, Nat.zero_le 11⟩, List.forall_mem_nil _⟩

/-- Settles O39, by induction on the number of steps. -/
theorem legalHostNeverStopsTheBlock : Obligations.LegalHostNeverStopsTheBlock := by
  intro s hs k
  induction k generalizing s with
  | zero => exact ⟨s, rfl, hs⟩
  | succ k ih =>
    obtain ⟨s', hstep, hs'⟩ := safe_step hs
    rw [run_succ k hstep]
    exact ih s' hs'

/-- Settles O40: the read port's two cases. -/
theorem readPixelReturnsTheCell : Obligations.ReadPixelReturnsTheCell := fun _ _ _ _ hs =>
  ⟨fun h => (step_cons hs).trans (readPixel_of_inRange h _),
    fun h => (step_cons hs).trans (readPixel_of_outOfRange h _)⟩

/-- Settles O41: the read port's two cases; the offsets of a legal state keep the window inside the canvas. -/
theorem readWindowReturnsTheOffsetCell : Obligations.ReadWindowReturnsTheOffsetCell := by
  intro s u v ops hs hq
  refine ⟨fun h => ?_, fun h => (step_cons hq).trans (readWindow_of_outOfRange h _)⟩
  obtain ⟨hx, hy⟩ := window_in_canvas hs h.1 h.2
  exact ⟨hx, hy, _, (step_cons hq).trans (readWindow_of_inRange h _), expandColor_toNat _⟩

/-- Settles O42: both ports expand the entry they read, and each view determines the entry. -/
theorem channelsReadTimesSeventeen : Obligations.ChannelsReadTimesSeventeen := by
  refine ⟨fun s k ops hs => ⟨_, _, step_cons hs, packColor_toNat _, expandColor_toNat _⟩,
    fun s t u v index rgb hread hreply => ?_,
    fun c c' => ⟨fun h => by rw [expandColor_inj h], fun h => by rw [packColor_inj h]⟩⟩
  by_cases huv : u < 288 ∧ v < 192
  · rw [readWindow_of_inRange huv] at hread
    obtain rfl := Host.Outcome.next.inj hread
    obtain ⟨rfl, rfl⟩ := Reply.window.inj (Option.some.inj hreply)
    exact expandColor_toNat _
  · rw [readWindow_of_outOfRange huv] at hread
    exact nomatch hread

/-- Settles O43: the window of a legal state lies in the canvas, where every cell is the colour. -/
theorem windowShowsTheColourOfAnAppliedPreset : Obligations.WindowShowsTheColourOfAnAppliedPreset := by
  intro s t color rep u v hs hrepeat ht hu hv
  rw [exec_eq, commandWrites_of_not_repeat hrepeat] at ht
  obtain rfl := Host.Outcome.next.inj ht
  obtain ⟨hx, hy⟩ := window_in_canvas hs hu hv
  refine ⟨_, expandColor s.palette[color.toNat], readWindow_of_inRange ⟨hu, hv⟩ _, ?_⟩
  have hcell : (Memory.fill color).pixel (windowX s u) (windowY s v) = color :=
    Memory.pixel_fill color (by omega) (by omega)
  simp only [windowX, windowY] at hcell
  simp [windowX, windowY, hcell]

/-- Settles O44: the two operations are applied as they come; with none the step is idle. -/
theorem statusClearAndIdleSteps : Obligations.StatusClearAndIdleSteps := fun _ _ =>
  ⟨fun hs => step_cons hs, fun hs => step_cons hs, fun hs => step_nil hs⟩

/-- Settles O45: an unlisted cell reads 0, and every entry of the palette is black. -/
theorem resetClearsEverything : Obligations.ResetClearsEverything := by
  intro s ops hs
  refine ⟨_, step_cons hs, ⟨rfl, fun _ _ _ _ => rfl⟩, fun k hk => ?_, rfl, rfl, rfl, rfl, rfl, rfl, rfl, rfl⟩
  have hblack : (State.reset.withInbox ops).palette[k] = ⟨0, 0, 0⟩ := Vector.getElem_replicate hk
  exact congrArg packColor hblack

/-- Settles O46: RESTART is applied as it comes. -/
theorem restartKeepsThePicture : Obligations.RestartKeepsThePicture := fun _ _ hs => step_cons hs

/-- Settles O47: arbitration hands on the clearing operation alone. -/
theorem resetWinsOverAPacket : Obligations.ResetWinsOverAPacket := by
  intro s p op restart hop
  cases restart with
  | true =>
    obtain rfl : HostOp.restart = op := Option.some.inj hop
    have hstep : step (s.withInbox [.restart]) = hostRestart (s.withInbox []) := step_withInbox_cons s .restart []
    exact ⟨_, hstep, rfl, rfl, rfl, fun _ => ⟨rfl, rfl, rfl, rfl⟩, (nomatch ·)⟩
  | false =>
    obtain rfl : HostOp.reset = op := Option.some.inj hop
    have hstep : step (s.withInbox [.reset]) = hostReset (s.withInbox []) := step_withInbox_cons s .reset []
    exact ⟨_, hstep, rfl, rfl, rfl, (nomatch ·), fun _ => rfl⟩

end Sys2Proof.Machine
end
section
/-!
Streams of packets (40_packet_reader.md section 3): a run over waiting packets is their effects one after another,
so what holds of one packet's bookkeeping holds of the stream's by induction on the packets.
-/

namespace Sys2Proof.Machine

open Sys2Proof Sys2Proof.Claims

/-! ### The effect of packets in order -/

/-- The state packets leave, applied in order. -/
def packetsEffect (ps : List Packet) (s : State) : State := ps.foldl (fun t p => packetEffect p t) s

@[simp] theorem packetsEffect_nil (s : State) : packetsEffect [] s = s := rfl

@[simp] theorem packetsEffect_cons (p : Packet) (ps : List Packet) (s : State) :
    packetsEffect (p :: ps) s = packetsEffect ps (packetEffect p s) := rfl

theorem packetsEffect_append (ps qs : List Packet) (s : State) :
    packetsEffect (ps ++ qs) s = packetsEffect qs (packetsEffect ps s) := List.foldl_append

@[simp] theorem packetsEffect_inbox (ps : List Packet) (s : State) : (packetsEffect ps s).inbox = s.inbox := by
  induction ps generalizing s with
  | nil => rfl
  | cons p ps ih => rw [packetsEffect_cons, ih, packetEffect_inbox]

/-- The position counts the packets, modulo 2^32 (40_packet_reader.md R110). -/
theorem packetsEffect_pktPos (ps : List Packet) (s : State) :
    (packetsEffect ps s).pktPos = s.pktPos + BitVec.ofNat 32 ps.length := by
  induction ps generalizing s with
  | nil => simp
  | cons p ps ih =>
    rw [packetsEffect_cons, ih, packetEffect_pktPos, List.length_cons, Nat.add_comm ps.length, BitVec.ofNat_add,
      BitVec.add_assoc]
    rfl

/-- After the last of some packets the host has the sample signal of the position reached
(40_packet_reader.md R114). -/
theorem packetsEffect_reply {ps : List Packet} (hps : ps ≠ []) (s : State) :
    (packetsEffect ps s).reply = some (.sampleDue (sampleDue (packetsEffect ps s).pktPos)) := by
  rw [← List.dropLast_append_getLast hps, packetsEffect_append]
  exact packetEffect_reply _ _

/-- `PREV_MP` after some packets is decided by the last marker packet among them (10_state.md R28). -/
theorem packetsEffect_prevMp (ps : List Packet) (s : State) :
    (packetsEffect ps s).prevMp =
      (ps.filter marked).getLast?.elim s.prevMp fun p : Packet => p[1].toNat % 64 == 1 := by
  induction ps using List.reverseRecOn with
  | nil => rfl
  | append_singleton ps p ih =>
    rw [packetsEffect_append, packetsEffect_cons, packetsEffect_nil, packetEffect_prevMp, List.filter_append]
    cases hmarked : marked p with
    | true => simp [hmarked]
    | false => simpa [hmarked] using ih

theorem packetsEffect_prevMp_of_nonMarker {ps : List Packet} (h : ∀ p ∈ ps, marked p = false) (s : State) :
    (packetsEffect ps s).prevMp = s.prevMp := by
  have hnone : ps.filter marked = [] := List.filter_eq_nil_iff.2 fun p hp => by simp [h p hp]
  rw [packetsEffect_prevMp, hnone]
  rfl

/-- Marker packets, none of them a MemoryPreset, leave `PREV_MP` clear (40_packet_reader.md R111). -/
theorem packetsEffect_prevMp_of_separated {ps : List Packet} (hsome : ∃ p ∈ ps, marked p = true)
    (hnone : ∀ p ∈ ps, ∀ color rep, decode p ≠ .ok (.memPreset color rep)) (s : State) :
    (packetsEffect ps s).prevMp = false := by
  obtain ⟨p, hp, hmarked⟩ := hsome
  obtain ⟨last, hlast⟩ : ∃ last, (ps.filter marked).getLast? = some last :=
    Option.ne_none_iff_exists'.1 fun h =>
      List.ne_nil_of_mem (List.mem_filter.2 ⟨hp, hmarked⟩) (List.getLast?_eq_none_iff.1 h)
  obtain ⟨hmem, hlastMarked⟩ := List.mem_filter.1 (List.mem_of_getLast? hlast)
  rw [packetsEffect_prevMp, hlast]
  refine Bool.eq_false_iff.2 fun hcode => ?_
  obtain ⟨color, rep, hdecode⟩ := exists_decode_eq_memPreset_iff.2 ⟨hlastMarked, beq_iff_eq.1 hcode⟩
  exact hnone last hmem color rep hdecode

/-! ### Runs over waiting packets -/

theorem run_add {s t : State} {j : Nat} (h : Host.Core.run core j s = .next t) (k : Nat) :
    Host.Core.run core (j + k) s = Host.Core.run core k t := by
  induction j generalizing s with
  | zero =>
    obtain rfl : s = t := Host.Outcome.next.inj h
    rw [Nat.zero_add]
  | succ j ih =>
    rw [Nat.succ_add]
    cases hstep : step s with
    | next u =>
      rw [run_succ j hstep] at h
      rw [run_succ (j + k) hstep, ih h]
    | fault r => exact nomatch r
    | refused r =>
      simp only [Host.Core.run, show core.step s = .refused r from hstep] at h
      exact nomatch h

/-- A run of as many steps as packets wait applies them in order and leaves what waits after them. -/
theorem run_packets {ps : List Packet} {ops : List HostOp} {s : State} (h : s.inbox = ps.map .pushPkt ++ ops) :
    Host.Core.run core ps.length s = .next (packetsEffect ps (s.withInbox ops)) := by
  induction ps generalizing s with
  | nil =>
    obtain rfl : s.inbox = ops := h
    rfl
  | cons p ps ih =>
    rw [List.length_cons, run_succ _ (step_of_pushPkt h), ih (by simp), packetsEffect_cons, packetEffect_withInbox,
      packetEffect_withInbox]
    rfl

theorem packetEffect_inv {s : State} (hs : Safety.Inv s) (p : Packet) : Safety.Inv (packetEffect p s) := by
  obtain ⟨t, ht, -, hinv⟩ := applyOp_legal (op := .pushPkt p) (s := s) rfl
  obtain rfl := Host.Outcome.next.inj (ht.symm.trans (applyPacket_eq p s))
  exact hinv hs

theorem packetsEffect_inv {s : State} (hs : Safety.Inv s) (ps : List Packet) :
    Safety.Inv (packetsEffect ps s) := by
  induction ps generalizing s with
  | nil => exact hs
  | cons p ps ih => exact ih (packetEffect_inv hs p)

/-! ### A second MemoryPreset (70_reset_and_hazards.md R256) -/

theorem packetEffect_of_suppressed {q : Packet} {color rep : BitVec 4} (hq : decode q = .ok (.memPreset color rep))
    {s : State} (h : s.prevMp = true ∧ rep ≠ 0) :
    (packetEffect q s).canvas = s.canvas ∧ (packetEffect q s).dirty = s.dirty := by
  rw [packetEffect_of_decode hq, commandWrites_of_repeat h, changedBy_memPreset, decide_eq_false (not_not_intro h)]
  simp

theorem packetEffect_of_applied {q : Packet} {color rep : BitVec 4} (hq : decode q = .ok (.memPreset color rep))
    {s : State} (h : ¬ (s.prevMp = true ∧ rep ≠ 0)) :
    CanvasIs (packetEffect q s).canvas fun _ _ => color := by
  rw [packetEffect_of_decode hq, commandWrites_of_not_repeat h, State.finishMarker_canvas, State.withCanvas_canvas]
  exact ⟨Memory.wf_fill color, fun x y hx hy => Memory.pixel_fill color hx hy⟩

theorem packetEffect_prevMp_of_memPreset {p : Packet} {color rep : BitVec 4}
    (hp : decode p = .ok (.memPreset color rep)) (s : State) : (packetEffect p s).prevMp = true := by
  simp [packetEffect_of_decode hp, Instr.opcode]

/-! ### The obligations -/

/-- Settles O30: whether the second preset is suppressed is its `repeat` and the `PREV_MP` the packets between leave. -/
theorem secondMemPresetAppliesOnlyIfSeparatedOrRepeatZero :
    Obligations.SecondMemPresetAppliesOnlyIfSeparatedOrRepeatZero := by
  intro s p q ps color rep color' rep' hp hq hs
  have hinbox : s.inbox = (p :: ps).map .pushPkt ++ [.pushPkt q] := by rw [hs, List.map_append]; rfl
  have hfirst := run_packets hinbox
  have hboth := run_add hfirst 1
  rw [run_succ 0 (step_of_pushPkt (packetsEffect_inbox _ _))] at hboth
  refine ⟨_, _, hfirst, hboth, fun hbetween hrep => ?_, fun hrep => ?_, fun hmarker hother => ?_⟩
  · have hprev : (packetsEffect (p :: ps) (s.withInbox [.pushPkt q])).prevMp = true := by
      rw [packetsEffect_cons, packetsEffect_prevMp_of_nonMarker fun r hr => isMarker_eq_marked r ▸ hbetween r hr]
      exact packetEffect_prevMp_of_memPreset hp _
    exact packetEffect_of_suppressed hq (s := State.withInbox _ []) ⟨hprev, hrep⟩
  · exact packetEffect_of_applied hq fun h => h.2 hrep
  · have hprev : (packetsEffect (p :: ps) (s.withInbox [.pushPkt q])).prevMp = false := by
      simp only [isMarker_eq_marked] at hmarker
      exact packetsEffect_prevMp_of_separated hmarker hother _
    refine packetEffect_of_applied hq fun h => ?_
    exact nomatch hprev.symm.trans h.1

/-- Settles O31: the run applies the packets in order, and each marker packet says what `PREV_MP` is. -/
theorem prevMpRemembersTheLastMarkerPacket : Obligations.PrevMpRemembersTheLastMarkerPacket := by
  intro ps ops s hs
  refine ⟨_, run_packets hs, packetsEffect_inbox _ _, ?_⟩
  rw [packetsEffect_prevMp]
  cases (ps.filter marked).getLast? <;> rfl

/-- Settles O32: the first `k` packets bring the position to `k`, whose sample signal the last of them returns. -/
theorem sampleIsDueEveryTwelfthPacket : Obligations.SampleIsDueEveryTwelfthPacket := by
  intro ps ops s hpos hs k hk hle
  have hlength : (ps.take k).length = k := List.length_take_of_le hle
  have hinbox : s.inbox = (ps.take k).map .pushPkt ++ ((ps.drop k).map .pushPkt ++ ops) := by
    rw [hs, ← List.append_assoc, ← List.map_append, List.take_append_drop]
  have hrun := run_packets hinbox
  have hcount : (packetsEffect (ps.take k) (s.withInbox ((ps.drop k).map .pushPkt ++ ops))).pktPos =
      BitVec.ofNat 32 k := by
    rw [packetsEffect_pktPos, hlength, State.withInbox_pktPos, hpos]
    exact BitVec.zero_add _
  rw [hlength] at hrun
  refine ⟨_, hrun, hcount, fun hlt => ?_⟩
  have hne : ps.take k ≠ [] := List.ne_nil_of_length_pos (by omega)
  rw [packetsEffect_reply hne, hcount, sampleDue_eq, BitVec.toNat_ofNat, Nat.mod_eq_of_lt hlt]

/-- Settles O33: a sample is due at the multiples of 12, which 10/3 ms each takes to the multiples of 40 ms. -/
theorem sampleDueIsAMultipleOfFortyMilliseconds : Obligations.SampleDueIsAMultipleOfFortyMilliseconds := by
  intro pos
  rw [sampleDue_eq, beq_iff_eq]
  refine ⟨⟨fun h => ⟨pos.toNat / 12, by omega⟩, ?_⟩, by omega⟩
  rintro ⟨k, hk⟩
  omega

/-- Settles O36: delivery appends the framed packets to the queue, and the run applies them. -/
theorem everyBufferRunsToItsEnd : Obligations.EveryBufferRunsToItsEnd := by
  refine ⟨fun b s hs => ?_, fun b b' s hb => ?_⟩
  · have hlength : (framePackets b).length = b.length / 24 := length_packetsFrom _ b
    have hinbox : (s.deliver b).inbox = (framePackets b).map .pushPkt ++ [] := by
      rw [State.deliver_inbox, hs, List.nil_append, List.append_nil]
    have hrun := run_packets hinbox
    rw [hlength] at hrun
    refine ⟨_, hrun, packetsEffect_inbox _ _, ?_, fun hinv => packetsEffect_inv ?_ _⟩
    · rw [packetsEffect_pktPos, hlength]; rfl
    · exact ⟨hinv.canvas_wf, hinv.hoff_legal, hinv.voff_legal⟩
  · simp only [State.deliver, State.issue, framePackets_append hb, List.map_append, State.withInbox_inbox,
      List.append_assoc]
    rfl

end Sys2Proof.Machine
end
